-- ==== Sys2Proof/Word.lean ====
section
/-! DEFINITION. The bit-vector types of the block's values (00_scope.md R13: unsigned values of a stated width). -/

namespace Sys2Proof

/-- A byte, `b[7:0]`. -/
abbrev Byte := BitVec 8

/-- A 7-bit data group, the significant bits of a data byte (30_encoding.md R70). -/
abbrev Data7 := BitVec 7

/-- A 4-bit channel, the index of a port or of an analog channel (10_state.md R24). -/
abbrev Channel := BitVec 4

/-- A 16-bit register value (10_state.md R25, R26, R31). -/
abbrev Half := BitVec 16

end Sys2Proof
end

