-- ==== Sys2Proof/Config.lean ====
section
/-! DEFINITION. The implementation parameters of 00_scope.md R5 to R12, the fixed constants of R9, and the free values. -/

namespace Sys2Proof

/-- The configuration record `cfg` of 00_scope.md section 3. Every field is an open parameter. -/
structure Config where
  /-- `SYSEX_CAP`, the capacity of the sysex accumulator in bytes (R5). -/
  sysexCap : Nat
  /-- `REPLY_MIN`, the I2C reply length threshold (R6). -/
  replyMin : Nat
  /-- `OP_DIGITAL` (R7). -/
  opDigital : Byte
  /-- `OP_ANALOG` (R7). -/
  opAnalog : Byte
  /-- `OP_VERSION`, in nibble form below 0xF0 and in full-byte form from 0xF0 on (R8). -/
  opVersion : Byte
  /-- `NUM_PORTS` (R10). -/
  numPorts : Nat
  /-- `NUM_ANALOG` (R10). -/
  numAnalog : Nat
  /-- `TIME_W`, the width of the timestamp (R11). -/
  timeW : Nat
deriving DecidableEq, Repr

/-- `START_SYSEX` (R9). -/
abbrev startSysexByte : Byte := 0xF0#8

/-- `END_SYSEX` (R9). -/
abbrev endSysexByte : Byte := 0xF7#8

/-- `I2C_REPLY` (R9). -/
abbrev i2cReplyByte : Byte := 0x77#8

/-- A multiple of 0x10 in 0x80..0xE0: what R7 and R8 ask of an opcode matched by its high nibble. -/
abbrev IsNibbleOpcode (b : Byte) : Prop := b &&& 0x0F#8 = 0#8 ∧ 0x80#8 ≤ b ∧ b ≤ 0xE0#8

/-- `OP_VERSION < 0xF0`: the nibble form of R8. -/
abbrev Config.nibbleVersion (c : Config) : Prop := c.opVersion < 0xF0#8

/-- The constraints R5, R6, R7, R8 and R10 put on a configuration. -/
abbrev Config.Valid (c : Config) : Prop :=
  (4 ≤ c.replyMin ∧ c.replyMin < c.sysexCap ∧ c.sysexCap ≤ 255) ∧
  (IsNibbleOpcode c.opDigital ∧ IsNibbleOpcode c.opAnalog ∧ c.opDigital ≠ c.opAnalog) ∧
  (if c.nibbleVersion then
      IsNibbleOpcode c.opVersion ∧ c.opVersion ≠ c.opDigital ∧ c.opVersion ≠ c.opAnalog
    else c.opVersion ≠ startSysexByte ∧ c.opVersion ≠ endSysexByte) ∧
  (1 ≤ c.numPorts ∧ c.numPorts ≤ 16) ∧
  (1 ≤ c.numAnalog ∧ c.numAnalog ≤ 16)

/-- `PL_MAX = floor((SYSEX_CAP - 1) / 2) - 2`, the longest payload (10_state.md R31). -/
def Config.plMax (c : Config) : Nat := (c.sysexCap - 1) / 2 - 2

/-- The reference configuration of R12. DESIGN CHOICE of the spec (D25, G1 to G3); log entry 1. -/
def Config.reference : Config where
  sysexCap := 64
  replyMin := 4
  opDigital := 0x90#8
  opAnalog := 0xE0#8
  opVersion := 0xF9#8
  numPorts := 16
  numAnalog := 16
  timeW := 32

/-! Free values. Each is an opaque constant applied to the model's own counter `State.draw`
(log entry 12) and, where it names an entry, to the index: nothing in Lean can evaluate one. -/

/-- `ACC[i]` for `i >= CNT`: any value (93_implementation_defined.md I10; log entry 9). -/
opaque Config.freeAcc : Nat → Nat → Byte

/-- `I2C_PL[j]` for `j >= I2C_LEN`, and the port `i2c_pl` there: any value (I12; log entry 10). -/
opaque Config.freePayload : Nat → Nat → Byte

/-- The wire `dig_evt_port` while `dig_evt_valid = 0` (10_state.md R36; log entry 11). -/
opaque Config.freeDigPort : Nat → Channel

/-- The wire `dig_evt_mask` while `dig_evt_valid = 0` (10_state.md R36; log entry 11). -/
opaque Config.freeDigMask : Nat → Byte

/-- The wire `dig_evt_bits` while `dig_evt_valid = 0` (10_state.md R36; log entry 11). -/
opaque Config.freeDigBits : Nat → Byte

/-- The wire `ana_evt_ch` while `ana_evt_valid = 0` (10_state.md R36; log entry 11). -/
opaque Config.freeAnaCh : Nat → Channel

/-- The wire `ana_evt_value` while `ana_evt_valid = 0` (10_state.md R36; log entry 11). -/
opaque Config.freeAnaValue : Nat → BitVec 14

end Sys2Proof
end

