-- ==== Sys2Proof/Syntax.lean ====
section
/-! DEFINITION. The instructions: one constructor per row of spec/opcode_table.json, and four more for the byte classes that
exist only away from the reference configuration (log entry 7). Also the decoder state a byte is read in. -/

namespace Sys2Proof

/-- `MODE` (10_state.md R20). -/
inductive Mode where
  /-- IDLE. -/
  | idle
  /-- AWAIT, the document's AwaitingData. -/
  | await
  /-- SYSEX, the document's ParsingSysex. -/
  | sysex
  /-- HALTED. -/
  | halted
deriving DecidableEq, Repr

/-- The class of a byte by its value alone (30_encoding.md R70). -/
inductive ByteClass where
  /-- 0x00..0x7F. -/
  | data
  /-- 0x80..0xEF. -/
  | channel
  /-- 0xF0. -/
  | startSysex
  /-- 0xF7. -/
  | endSysex
  /-- 0xF1..0xF6, 0xF8..0xFF. -/
  | system
deriving DecidableEq, Repr

/-- The classes of input byte (00_scope.md R3; 30_encoding.md R83). An operand is the part of the byte the row leaves open. -/
inductive Instr where
  /-- FIRST_DATA (R130). -/
  | firstData (d : Data7)
  /-- SECOND_DATA (R132). -/
  | secondData (d : Data7)
  /-- DIGITAL_COMPLETE (R135, R136). -/
  | digitalComplete (d : Data7)
  /-- ANALOG_COMPLETE (R137, R138). -/
  | analogComplete (d : Data7)
  /-- VERSION_COMPLETE (R139). -/
  | versionComplete (d : Data7)
  /-- DROP_CHANNEL_BYTE, a data byte in IDLE (R162). -/
  | dropDataByte (d : Data7)
  /-- START_COMMAND, digital (R161). -/
  | startDigital (ch : Channel)
  /-- START_COMMAND, analog (R161). -/
  | startAnalog (ch : Channel)
  /-- START_COMMAND, version in nibble form (R161; no row of its own, log entry 7). -/
  | startVersionNibble (ch : Channel)
  /-- DROP_CHANNEL_BYTE, nibble 0x80 (R162). -/
  | dropNibble80 (ch : Channel)
  /-- DROP_CHANNEL_BYTE, nibble 0x90, where no opcode is configured there (R162; no row of its own, log entry 7). -/
  | dropNibble90 (ch : Channel)
  /-- DROP_CHANNEL_BYTE, nibble 0xA0 (R162). -/
  | dropNibbleA0 (ch : Channel)
  /-- DROP_CHANNEL_BYTE, nibble 0xB0 (R162). -/
  | dropNibbleB0 (ch : Channel)
  /-- DROP_CHANNEL_BYTE, nibble 0xC0 (R162). -/
  | dropNibbleC0 (ch : Channel)
  /-- DROP_CHANNEL_BYTE, nibble 0xD0 (R162). -/
  | dropNibbleD0 (ch : Channel)
  /-- DROP_CHANNEL_BYTE, nibble 0xE0, where no opcode is configured there (R162; no row of its own, log entry 7). -/
  | dropNibbleE0 (ch : Channel)
  /-- START_SYSEX (R164). -/
  | startSysex
  /-- START_VERSION_FULL (R163). -/
  | startVersionFull
  /-- DROP_SYSTEM_BYTE, 0xF1 (R165). -/
  | dropSystemF1
  /-- DROP_SYSTEM_BYTE, 0xF2 (R165). -/
  | dropSystemF2
  /-- DROP_SYSTEM_BYTE, 0xF3 (R165). -/
  | dropSystemF3
  /-- DROP_SYSTEM_BYTE, 0xF4 (R165). -/
  | dropSystemF4
  /-- DROP_SYSTEM_BYTE, 0xF5 (R165). -/
  | dropSystemF5
  /-- DROP_SYSTEM_BYTE, 0xF6 (R165). -/
  | dropSystemF6
  /-- DROP_SYSTEM_BYTE, 0xF7: an END_SYSEX outside a sysex (R165). -/
  | dropSystemF7
  /-- DROP_SYSTEM_BYTE, 0xF8 (R165). -/
  | dropSystemF8
  /-- DROP_SYSTEM_BYTE, 0xF9, where the version opcode is not 0xF9 (R165; no row of its own, log entry 7). -/
  | dropSystemF9
  /-- DROP_SYSTEM_BYTE, 0xFA (R165). -/
  | dropSystemFA
  /-- DROP_SYSTEM_BYTE, 0xFB (R165). -/
  | dropSystemFB
  /-- DROP_SYSTEM_BYTE, 0xFC (R165). -/
  | dropSystemFC
  /-- DROP_SYSTEM_BYTE, 0xFD (R165). -/
  | dropSystemFD
  /-- DROP_SYSTEM_BYTE, 0xFE (R165). -/
  | dropSystemFE
  /-- DROP_SYSTEM_BYTE, 0xFF (R165). -/
  | dropSystemFF
  /-- APPEND (R100). -/
  | append (b : Byte)
  /-- OVERFLOW (R101). -/
  | overflow (b : Byte)
  /-- FINALIZE (R104). -/
  | finalize
  /-- EMIT_I2C, the END_SYSEX of an accepted reply (R107, R108). -/
  | emitI2c
  /-- IGNORED (HALTED): a byte offered in HALTED (R206). -/
  | ignoredHalted (b : Byte)
deriving DecidableEq, Repr

/-- What of the decoder state the reading of a byte depends on (30_encoding.md R80): the "state" column of the opcode table. -/
structure DecodeCtx where
  /-- `MODE`. -/
  mode : Mode
  /-- `REM`. -/
  rem : BitVec 2
  /-- `P_OP`. -/
  pOp : Byte
  /-- `CNT`. -/
  cnt : BitVec 8
  /-- Whether the accumulated body is an accepted I2C reply (40_sysex.md R106). -/
  reply : Bool
deriving DecidableEq, Repr

end Sys2Proof
end

