-- ==== Sys2Proof/WellFormed.lean ====
section
/-! DEFINITION. Which instructions exist in a configuration, and in which decoder states each stands: the "match", "state" and
"note" columns of spec/opcode_table.json, written row by row and apart from the decoder. -/

namespace Sys2Proof

/-- No opcode is configured at the high nibble `op` (00_scope.md R7, R8). -/
abbrev Config.unassigned (c : Config) (op : Byte) : Prop :=
  c.opDigital ≠ op ∧ c.opAnalog ≠ op ∧ c.opVersion ≠ op

/-- The instruction exists in configuration `c`: a body byte is not END_SYSEX (R100, R101), and a byte whose reading moves with the
configured opcodes (R83, last paragraph) is the row that the configuration makes it. -/
abbrev Instr.WellFormed (c : Config) : Instr → Prop
  | .startVersionNibble _ => c.nibbleVersion
  | .startVersionFull => ¬ c.nibbleVersion
  | .dropNibble80 _ => c.unassigned 0x80#8
  | .dropNibble90 _ => c.unassigned 0x90#8
  | .dropNibbleA0 _ => c.unassigned 0xA0#8
  | .dropNibbleB0 _ => c.unassigned 0xB0#8
  | .dropNibbleC0 _ => c.unassigned 0xC0#8
  | .dropNibbleD0 _ => c.unassigned 0xD0#8
  | .dropNibbleE0 _ => c.unassigned 0xE0#8
  | .dropSystemF1 => c.opVersion ≠ 0xF1#8
  | .dropSystemF2 => c.opVersion ≠ 0xF2#8
  | .dropSystemF3 => c.opVersion ≠ 0xF3#8
  | .dropSystemF4 => c.opVersion ≠ 0xF4#8
  | .dropSystemF5 => c.opVersion ≠ 0xF5#8
  | .dropSystemF6 => c.opVersion ≠ 0xF6#8
  | .dropSystemF7 => c.opVersion ≠ 0xF7#8
  | .dropSystemF8 => c.opVersion ≠ 0xF8#8
  | .dropSystemF9 => c.opVersion ≠ 0xF9#8
  | .dropSystemFA => c.opVersion ≠ 0xFA#8
  | .dropSystemFB => c.opVersion ≠ 0xFB#8
  | .dropSystemFC => c.opVersion ≠ 0xFC#8
  | .dropSystemFD => c.opVersion ≠ 0xFD#8
  | .dropSystemFE => c.opVersion ≠ 0xFE#8
  | .dropSystemFF => c.opVersion ≠ 0xFF#8
  | .append b => b ≠ endSysexByte
  | .overflow b => b ≠ endSysexByte
  | _ => True

/-- The row's "state" column: the decoder states the instruction is read in (30_encoding.md R83). Where two rows share a byte and a
state, the general row (SECOND_DATA, FINALIZE) keeps what its special rows leave (log entry 6). -/
abbrev Instr.StandsIn (c : Config) (x : DecodeCtx) : Instr → Prop
  | .firstData _ => x.mode = .await ∧ x.rem = 2#2
  | .secondData _ => x.mode = .await ∧ x.rem ≠ 2#2 ∧ c.unassigned x.pOp
  | .digitalComplete _ => x.mode = .await ∧ x.rem ≠ 2#2 ∧ x.pOp = c.opDigital
  | .analogComplete _ => x.mode = .await ∧ x.rem ≠ 2#2 ∧ x.pOp = c.opAnalog
  | .versionComplete _ => x.mode = .await ∧ x.rem ≠ 2#2 ∧ x.pOp = c.opVersion
  | .dropDataByte _ => x.mode = .idle
  | .append _ => x.mode = .sysex ∧ x.cnt.toNat ≠ c.sysexCap
  | .overflow _ => x.mode = .sysex ∧ x.cnt.toNat = c.sysexCap
  | .finalize => x.mode = .sysex ∧ x.reply = false
  | .emitI2c => x.mode = .sysex ∧ x.reply = true
  | .ignoredHalted _ => x.mode = .halted
  | _ => x.mode = .idle ∨ x.mode = .await

end Sys2Proof
end

