-- ==== Sys2Proof/Decode.lean ====
section
/-! DEFINITION. Reading a byte in a decoder state (30_encoding.md R70, R71, R80, R83; 42_leading_bytes.md R160), and the encoder. -/

namespace Sys2Proof

/-- `b & 0xF0` (R71). -/
def opcodeOf (b : Byte) : Byte := b &&& 0xF0#8

/-- `b & 0x0F`, the channel field (R71). -/
def channelOf (b : Byte) : Channel := b.extractLsb' 0 4

/-- `b[7:4]`, the high nibble. -/
def nibbleOf (b : Byte) : BitVec 4 := b.extractLsb' 4 4

/-- `b[6:0]` (R130). -/
def dataOf (b : Byte) : Data7 := b.extractLsb' 0 7

/-- The class of a byte by its value (R70). -/
def classOf (b : Byte) : ByteClass :=
  if b < 0x80#8 then .data
  else if b < 0xF0#8 then .channel
  else if b = startSysexByte then .startSysex
  else if b = endSysexByte then .endSysex
  else .system

/-- The row of a byte below 0xF0 that starts nothing (R162). -/
def dropChannelByte (b : Byte) : Instr :=
  if nibbleOf b = 0x8#4 then .dropNibble80 (channelOf b)
  else if nibbleOf b = 0x9#4 then .dropNibble90 (channelOf b)
  else if nibbleOf b = 0xA#4 then .dropNibbleA0 (channelOf b)
  else if nibbleOf b = 0xB#4 then .dropNibbleB0 (channelOf b)
  else if nibbleOf b = 0xC#4 then .dropNibbleC0 (channelOf b)
  else if nibbleOf b = 0xD#4 then .dropNibbleD0 (channelOf b)
  else if nibbleOf b = 0xE#4 then .dropNibbleE0 (channelOf b)
  else .dropDataByte (dataOf b)

/-- The row of a byte from 0xF0 on that is not the full-byte version opcode (R164, R165), by its low nibble. -/
def systemByte (low : BitVec 4) : Instr :=
  if low = 0x0#4 then .startSysex
  else if low = 0x1#4 then .dropSystemF1
  else if low = 0x2#4 then .dropSystemF2
  else if low = 0x3#4 then .dropSystemF3
  else if low = 0x4#4 then .dropSystemF4
  else if low = 0x5#4 then .dropSystemF5
  else if low = 0x6#4 then .dropSystemF6
  else if low = 0x7#4 then .dropSystemF7
  else if low = 0x8#4 then .dropSystemF8
  else if low = 0x9#4 then .dropSystemF9
  else if low = 0xA#4 then .dropSystemFA
  else if low = 0xB#4 then .dropSystemFB
  else if low = 0xC#4 then .dropSystemFC
  else if low = 0xD#4 then .dropSystemFD
  else if low = 0xE#4 then .dropSystemFE
  else .dropSystemFF

/-- `leading(b)` (R160), in the order the rule tests. -/
def leadingByte (c : Config) (b : Byte) : Instr :=
  if b < 0xF0#8 then
    if opcodeOf b = c.opDigital then .startDigital (channelOf b)
    else if opcodeOf b = c.opAnalog then .startAnalog (channelOf b)
    else if c.nibbleVersion ∧ opcodeOf b = c.opVersion then .startVersionNibble (channelOf b)
    else dropChannelByte b
  else if b = startSysexByte then .startSysex
  else if ¬ c.nibbleVersion ∧ b = c.opVersion then .startVersionFull
  else systemByte (channelOf b)

/-- A data byte in AWAIT (R80, document rule 2). The second data byte is read as the row of the multiplexer's branch (R132, R140)
where `P_OP` is one of the three opcodes; DESIGN CHOICE, log entry 6. -/
def awaitDataByte (c : Config) (x : DecodeCtx) (d : Data7) : Instr :=
  if x.rem = 2#2 then .firstData d
  else if x.pOp = c.opDigital then .digitalComplete d
  else if x.pOp = c.opAnalog then .analogComplete d
  else if x.pOp = c.opVersion then .versionComplete d
  else .secondData d

/-- A byte in SYSEX (R80, document rule 1). END_SYSEX is read as EMIT_I2C where the body is an accepted reply; log entry 6. -/
def sysexByte (c : Config) (x : DecodeCtx) (b : Byte) : Instr :=
  if b = endSysexByte then (if x.reply then .emitI2c else .finalize)
  else if x.cnt.toNat = c.sysexCap then .overflow b
  else .append b

/-- The dispatch of R80: the one row a byte is, in a decoder state. Every byte is some row (R79: no encoding traps). -/
def decodeByte (c : Config) (x : DecodeCtx) (b : Byte) : Instr :=
  match x.mode with
  | .halted => .ignoredHalted b
  | .sysex => sysexByte c x b
  | .await => if b < 0x80#8 then awaitDataByte c x (dataOf b) else leadingByte c b
  | .idle => leadingByte c b

/-- Why the decoder reads nothing. -/
inductive DecodeError where
  /-- No byte is there. -/
  | noByte
deriving DecidableEq, Repr

/-- Reading the first instruction of a list of bytes: every instruction is one byte (R52). -/
def decode (c : Config) (x : DecodeCtx) : List Byte → Except DecodeError (Instr × List Byte)
  | [] => .error .noByte
  | b :: rest => .ok (decodeByte c x b, rest)

/-- The byte of an instruction, from the "match" column of the table and the operand (R70, R71, R72). -/
def encodeByte (c : Config) : Instr → Byte
  | .firstData d | .secondData d | .digitalComplete d | .analogComplete d | .versionComplete d | .dropDataByte d => d.setWidth 8
  | .startDigital ch => c.opDigital ||| ch.setWidth 8
  | .startAnalog ch => c.opAnalog ||| ch.setWidth 8
  | .startVersionNibble ch => c.opVersion ||| ch.setWidth 8
  | .dropNibble80 ch => 0x80#8 ||| ch.setWidth 8
  | .dropNibble90 ch => 0x90#8 ||| ch.setWidth 8
  | .dropNibbleA0 ch => 0xA0#8 ||| ch.setWidth 8
  | .dropNibbleB0 ch => 0xB0#8 ||| ch.setWidth 8
  | .dropNibbleC0 ch => 0xC0#8 ||| ch.setWidth 8
  | .dropNibbleD0 ch => 0xD0#8 ||| ch.setWidth 8
  | .dropNibbleE0 ch => 0xE0#8 ||| ch.setWidth 8
  | .startSysex => 0xF0#8
  | .startVersionFull => c.opVersion
  | .dropSystemF1 => 0xF1#8
  | .dropSystemF2 => 0xF2#8
  | .dropSystemF3 => 0xF3#8
  | .dropSystemF4 => 0xF4#8
  | .dropSystemF5 => 0xF5#8
  | .dropSystemF6 => 0xF6#8
  | .dropSystemF7 => 0xF7#8
  | .dropSystemF8 => 0xF8#8
  | .dropSystemF9 => 0xF9#8
  | .dropSystemFA => 0xFA#8
  | .dropSystemFB => 0xFB#8
  | .dropSystemFC => 0xFC#8
  | .dropSystemFD => 0xFD#8
  | .dropSystemFE => 0xFE#8
  | .dropSystemFF => 0xFF#8
  | .append b | .overflow b | .ignoredHalted b => b
  | .finalize | .emitI2c => 0xF7#8

/-- The bytes of an instruction. -/
def encode (c : Config) (i : Instr) : List Byte := [encodeByte c i]

/-- The decoder state right after reset (10_state.md R40). -/
def resetCtx : DecodeCtx := { mode := .idle, rem := 0#2, pOp := 0#8, cnt := 0#8, reply := false }

/-- The bytes of a word of the opcode table: `nbits` bits of `w`, the first byte its least significant eight bits, and at least the
one byte that the longest instruction has. -/
def tableBytes (nbits w : Nat) : List Byte :=
  (List.range (max 1 ((nbits + 7) / 8))).map (fun k => BitVec.ofNat 8 (w % 2 ^ nbits / 256 ^ k))

/-- What the decoder reads from a word of the table in the state after reset, at the reference configuration. A byte has a meaning
only in a decoder state (R77), and a word of the table carries none; log entry 15. -/
def decodeTableWord (nbits w : Nat) : Option Instr :=
  match decode Config.reference resetCtx (tableBytes nbits w) with
  | .ok (i, _) => some i
  | .error _ => none

end Sys2Proof
end

