-- ==== Sys2Proof/Machine/State.lean ====
section
/-! DEFINITION. The state of the block (10_state.md), its inputs and outputs as plain data, the two stops, and reset (R40). -/

namespace Sys2Proof.Machine

/-- A byte array indexed from 0, as the list of its entries that differ from what an unlisted index reads as. -/
abbrev Memory := List Host.Cell

/-- What an unlisted index of a byte array reads as: the reset contents of `ACC` and `I2C_PL` (10_state.md R40; log entry 14). -/
abbrev Memory.blank : Byte := 0#8

/-- The canonical form: indexes strictly rising, and no entry equal to `Memory.blank`. -/
abbrev Memory.wf (m : Memory) : Prop :=
  m.Pairwise (fun c d => c.1 < d.1) ∧ ∀ c ∈ m, c.2 ≠ Memory.blank

/-- `FAULT` (10_state.md R29). -/
inductive Cause where
  /-- NONE: the block is not halted. -/
  | none
  /-- TRANSPORT: a transport failure (60_exceptions.md R202). -/
  | transport
  /-- DIG_RANGE: a digital message to a port at or above NUM_PORTS (R203). -/
  | digRange
  /-- ANA_RANGE: an analog message to a channel at or above NUM_ANALOG (R203). -/
  | anaRange
deriving DecidableEq, Repr

/-- An event toward the host (00_scope.md R15; 60_exceptions.md R209). -/
inductive Event where
  /-- `DigitalChanged(pin, state)`: the pin's number, and whether it is high. -/
  | digitalChanged (pin : Nat) (level : Bool)
  /-- `AnalogChanged(channel, value)`. -/
  | analogChanged (channel : Channel) (value : Half)
  /-- `I2CReceived(address, register, payload)`. -/
  | i2cReceived (address register : Half) (payload : List Byte)
deriving DecidableEq, Repr

/-- The registered event outputs (10_state.md R36, R39). At most one class is valid (30_encoding.md R82). -/
inductive EventWord where
  /-- No event output is valid. -/
  | none
  /-- `dig_evt_valid` with `dig_evt_port`, `dig_evt_mask` and `dig_evt_bits`. -/
  | digital (port : Channel) (mask bits : Byte)
  /-- `ana_evt_valid` with `ana_evt_ch` and `ana_evt_value`. -/
  | analog (channel : Channel) (value : BitVec 14)
  /-- `i2c_evt_valid`: the reply latch holds the event. -/
  | i2c
deriving DecidableEq, Repr

/-- The values on the input ports at one rising edge (10_state.md R35). -/
structure Pins where
  /-- `rst`. -/
  rst : Bool
  /-- `rx_valid`. -/
  rxValid : Bool
  /-- `rx_data`. -/
  rxData : Byte
  /-- `rx_err`. -/
  rxErr : Bool
  /-- `now`, of which the low TIME_W bits are the wire's (log entry 5). -/
  now : Nat
  /-- `port_idx`. -/
  portIdx : Channel
  /-- `ana_idx`. -/
  anaIdx : Channel
  /-- `pl_idx`. -/
  plIdx : Byte
deriving DecidableEq, Repr

/-- The input of one step (00_scope.md R15, 10_state.md R37). -/
inductive Input where
  /-- `Reset(t0)`. -/
  | reset (t0 : Nat)
  /-- `TransportError`. -/
  | transportError
  /-- A byte offered on `rx_data`. In HALTED it is not consumed (R206). -/
  | byte (b : Byte)
  /-- Any other edge. -/
  | quiet
deriving DecidableEq, Repr

/-- The state of the machine: the block's registers, then what the model carries for the host's interface. -/
structure State where
  /-- The configuration: fixed, no step changes it (00_scope.md R5 to R12; log entry 1). -/
  cfg : Config
  /-- `MODE` (R20). -/
  mode : Mode
  /-- `P_OP` (R22). -/
  pOp : Byte
  /-- `P_CH` (R22). -/
  pCh : Channel
  /-- `REM` (R22). -/
  rem : BitVec 2
  /-- `D0` (R22). -/
  d0 : Data7
  /-- `ACC` (R23): the entries below CNT; the others hold no meaning and are not kept (log entry 9). -/
  acc : Memory
  /-- `CNT` (R23). -/
  cnt : BitVec 8
  /-- `PORT[0..15]` (R25). -/
  port : Vector Half 16
  /-- `ANA[0..15]` (R26). -/
  ana : Vector Half 16
  /-- `VER_MAJOR` (R27). -/
  verMajor : Data7
  /-- `VER_MINOR` (R27). -/
  verMinor : Data7
  /-- `LAST_ACT` (R28), a TIME_W-bit value (log entry 5). -/
  lastAct : Nat
  /-- `FAULT` (R29). -/
  fault : Cause
  /-- `FAULT_CH` (R29). -/
  faultCh : Channel
  /-- `I2C_ADDR` (R31). -/
  i2cAddr : Half
  /-- `I2C_REG` (R31). -/
  i2cReg : Half
  /-- `I2C_LEN` (R31). -/
  i2cLen : BitVec 8
  /-- `I2C_PL` (R31): the entries below I2C_LEN; the others hold no meaning and are not kept (log entry 10). -/
  i2cPl : Memory
  /-- The registered event outputs (R39). -/
  evt : EventWord
  /-- The events of the last step, in emission order (00_scope.md R14, R15). -/
  events : List Event
  /-- The input ports at the edges to come, the next edge first; after the last one the ports are quiet (log entry 2). -/
  inputs : List Pins
  /-- The model's own counter for free values, one more at every step (log entry 12). -/
  draw : Nat
deriving DecidableEq, Repr

/-- Where a step stops. No state that meets the invariant of 10_state.md R41 reaches either (log entry 13). -/
inductive Fault where
  /-- A body byte would be stored at an index of `ACC` at or above SYSEX_CAP, which does not exist (R23). Raised by APPEND. Safe. -/
  | accIndex
  /-- A payload byte would be stored at an index of `I2C_PL` at or above PL_MAX, which does not exist (R31). Raised by FINALIZE and
  EMIT_I2C. Safe. -/
  | payloadIndex
deriving DecidableEq, Repr

/-- Why a step is refused. -/
inductive Refusal where
  /-- An instruction that has no meaning yet. Raised by no arm of exec: every row is modelled. Safe. -/
  | notModelled (mnemonic : String)
deriving DecidableEq, Repr

/-- The values on the output ports (10_state.md R36). -/
structure Outputs where
  /-- `rx_ready`. -/
  rxReady : Bool
  /-- `dig_evt_valid`. -/
  digEvtValid : Bool
  /-- `dig_evt_port`. -/
  digEvtPort : Channel
  /-- `dig_evt_mask`. -/
  digEvtMask : Byte
  /-- `dig_evt_bits`. -/
  digEvtBits : Byte
  /-- `ana_evt_valid`. -/
  anaEvtValid : Bool
  /-- `ana_evt_ch`. -/
  anaEvtCh : Channel
  /-- `ana_evt_value`. -/
  anaEvtValue : BitVec 14
  /-- `i2c_evt_valid`. -/
  i2cEvtValid : Bool
  /-- `port_data`. -/
  portData : Half
  /-- `ana_data`. -/
  anaData : Half
  /-- `ver_major`. -/
  verMajor : Data7
  /-- `ver_minor`. -/
  verMinor : Data7
  /-- `i2c_addr`. -/
  i2cAddr : Half
  /-- `i2c_reg`. -/
  i2cReg : Half
  /-- `i2c_len`. -/
  i2cLen : BitVec 8
  /-- `i2c_pl`. -/
  i2cPl : Byte
  /-- `last_act`. -/
  lastAct : Nat
  /-- `state`. -/
  state : BitVec 2
  /-- `fault`. -/
  fault : BitVec 2
  /-- `fault_ch`. -/
  faultCh : Channel
deriving DecidableEq, Repr

/-- The state `Reset(t0)` leaves (10_state.md R40), in a configuration. -/
def State.resetAt (c : Config) (t0 : Nat) : State where
  cfg := c
  mode := .idle
  pOp := 0#8
  pCh := 0#4
  rem := 0#2
  d0 := 0#7
  acc := []
  cnt := 0#8
  port := Vector.replicate 16 0#16
  ana := Vector.replicate 16 0#16
  verMajor := 0#7
  verMinor := 0#7
  lastAct := t0 % 2 ^ c.timeW
  fault := .none
  faultCh := 0#4
  i2cAddr := 0#16
  i2cReg := 0#16
  i2cLen := 0#8
  i2cPl := []
  evt := .none
  events := []
  inputs := []
  draw := 0

/-- The machine right after reset (R40), at the reference configuration and with `t0 = 0`. DESIGN CHOICE, log entries 1, 4 and 12. -/
def State.reset : State := State.resetAt Config.reference 0

end Sys2Proof.Machine
end

