-- ==== Sys2Proof/Machine/Operands.lean ====
section
/-! DEFINITION. Operand assembly (30_encoding.md R78; 20_memory.md R50, R51, R53) and the numbers of the enumerated registers. -/

namespace Sys2Proof.Machine

/-- `low7 | (high7 << 7)` over two data groups (R50, R133). -/
def joinData (low high : Data7) : Half := low.setWidth 16 ||| high.setWidth 16 <<< 7

/-- `lo | (hi << 7)` over two body bytes, all eight bits of each (R78, 40_sysex.md R107). -/
def joinBytes (low high : Byte) : Half := low.setWidth 16 ||| high.setWidth 16 <<< 7

/-- `v mod 256`, the low byte of a value (R107). -/
def lowByte (v : Half) : Byte := v.setWidth 8

/-- The number of the pin at bit `i` of port `ch` (R51, R78). -/
def pinNumber (ch : Channel) (i : Nat) : Nat := i + 8 * ch.toNat

/-- The number of a mode in `MODE` (10_state.md R20). -/
def modeCode : Mode → BitVec 2
  | .idle => 0#2
  | .await => 1#2
  | .sysex => 2#2
  | .halted => 3#2

/-- The number of a cause in `FAULT` (10_state.md R29). -/
def causeCode : Cause → BitVec 2
  | .none => 0#2
  | .transport => 1#2
  | .digRange => 2#2
  | .anaRange => 3#2

end Sys2Proof.Machine
end

