-- ==== Sys2Proof/Machine/Ops.lean ====
section
/-! DEFINITION. The named operations over the byte arrays, the inputs and the registers, taking a fault (60_exceptions.md R205) and
returning from one (R207, 70_reset_and_hazards.md R230). -/

namespace Sys2Proof.Machine

/-! ### Byte arrays -/

/-- The byte at an index. -/
def Memory.read : Memory → Nat → Byte
  | [], _ => Memory.blank
  | (b, v) :: m, a => if a = b then v else Memory.read m a

/-- Storing a byte at an index, keeping the canonical form. -/
def Memory.write : Memory → Nat → Byte → Memory
  | [], a, v => if v = Memory.blank then [] else [(a, v)]
  | (b, w) :: m, a, v =>
    if a < b then (if v = Memory.blank then (b, w) :: m else (a, v) :: (b, w) :: m)
    else if a = b then (if v = Memory.blank then m else (b, v) :: m)
    else (b, w) :: Memory.write m a v

/-- The array that holds `bs` from index `k` on. -/
def Memory.ofBytes : Nat → List Byte → Memory
  | _, [] => []
  | k, b :: bs => Memory.write (Memory.ofBytes (k + 1) bs) k b

/-! ### Inputs -/

/-- The ports when the host and the transport drive nothing. -/
def quietPins : Pins where
  rst := false
  rxValid := false
  rxData := 0#8
  rxErr := false
  now := 0
  portIdx := 0#4
  anaIdx := 0#4
  plIdx := 0#8

/-- The ports when the transport offers a byte at time `t`. -/
def bytePins (b : Byte) (t : Nat) : Pins := { quietPins with rxValid := true, rxData := b, now := t }

/-- The ports when the transport reports a failure. -/
def errorPins : Pins := { quietPins with rxErr := true }

/-- The ports when the host resets the block at time `t0`. -/
def resetPins (t0 : Nat) : Pins := { quietPins with rst := true, now := t0 }

/-- The values on the input ports now: those the next edge samples. -/
def pinsNow (s : State) : Pins := s.inputs.headD quietPins

/-- The time on the port `now`, TIME_W bits (10_state.md R28, R35; log entry 5). -/
def timeNow (s : State) : Nat := (pinsNow s).now % 2 ^ s.cfg.timeW

/-- Which input an edge performs, by the priority of 60_exceptions.md R208. -/
def inputOf (p : Pins) : Input :=
  if p.rst then .reset p.now
  else if p.rxErr then .transportError
  else if p.rxValid then .byte p.rxData
  else .quiet

/-- The edges to come, with one byte offered at its time for each entry of `bs` put before them. -/
def offerStream (bs : List (Byte × Nat)) (s : State) : State :=
  { s with inputs := bs.map (fun p => bytePins p.1 p.2) ++ s.inputs }

/-- After an edge the next values stand on the ports, and the counter for free values has moved on (log entries 2, 12). -/
def nextEdge (s : State) : State := { s with inputs := s.inputs.tail, draw := s.draw + 1 }

/-! ### What every step does -/

/-- An edge that emits nothing leaves every event output not valid (10_state.md R37, R39). -/
def clearEvents (s : State) : State := { s with evt := .none, events := [] }

/-- A byte is consumed: `LAST_ACT <- t` (30_encoding.md R81), and no event yet. -/
def consumeByte (s : State) : State := { clearEvents s with lastAct := timeNow s }

/-! ### Taking a fault and returning from it -/

/-- `raise Fault(cause, ch)` (R205): `MODE`, `FAULT` and `FAULT_CH`, nothing else. The caller gives the state in which every other
write of the step is cancelled (00_scope.md R14). -/
def raiseFault (cause : Cause) (ch : Channel) (s : State) : State :=
  { s with mode := .halted, fault := cause, faultCh := ch }

/-- `step(cfg, S, TransportError)` (R202): the first cause is kept, and `LAST_ACT` is not written. -/
def transportError (s : State) : State :=
  if s.mode = .halted then clearEvents s else raiseFault .transport 0#4 (clearEvents s)

/-- `step(cfg, S, Reset(t0))` (R230), the one way out of HALTED (R207). -/
def resetStep (t0 : Nat) (s : State) : State :=
  { State.resetAt s.cfg t0 with inputs := s.inputs, draw := s.draw }

/-! ### The pending command -/

/-- `start(op, ch)` (42_leading_bytes.md R160). `D0` is left, stale (R166). -/
def startCommand (op : Byte) (ch : Channel) (s : State) : State :=
  { s with mode := .await, pOp := op, pCh := ch, rem := 2#2 }

/-- The first data byte is stored (41_data_bytes.md R130). -/
def storeFirst (d : Data7) (s : State) : State := { s with d0 := d, rem := 1#2 }

/-- `REM <- 0` and `MODE <- IDLE` (R132). -/
def finishCommand (s : State) : State := { s with rem := 0#2, mode := .idle }

/-! ### The accumulator -/

/-- `ACC[i]`: the stored byte below CNT, and any value from there on (10_state.md R23; log entry 9). -/
def accByte (s : State) (i : Nat) : Byte :=
  if i < s.cnt.toNat then s.acc.read i else Config.freeAcc s.draw i

/-- `ACC[CNT] <- b` and `CNT <- CNT + 1` (40_sysex.md R100), for a `CNT` below SYSEX_CAP. -/
def pushBody (b : Byte) (s : State) : State :=
  { s with acc := s.acc.write s.cnt.toNat b, cnt := s.cnt + 1#8 }

/-- `CNT <- 0`: the accumulator is empty, its entries hold no meaning (10_state.md R23). -/
def emptyBody (s : State) : State := { s with acc := [], cnt := 0#8 }

/-- `MODE <- SYSEX` and `CNT <- 0` (42_leading_bytes.md R164). -/
def openSysex (s : State) : State := { emptyBody s with mode := .sysex }

/-- `CNT <- 0` and `MODE <- IDLE` (40_sysex.md R101, R104). -/
def closeSysex (s : State) : State := { emptyBody s with mode := .idle }

/-! ### The register files -/

/-- `PORT[ch]`. -/
def portOf (s : State) (ch : Channel) : Half := s.port[ch.toNat]

/-- `ANA[ch]`. -/
def anaOf (s : State) (ch : Channel) : Half := s.ana[ch.toNat]

/-- `PORT[ch] <- v`, the whole register (20_memory.md R57). -/
def setPort (ch : Channel) (v : Half) (s : State) : State := { s with port := s.port.set ch.toNat v }

/-- `ANA[ch] <- v`, the whole register (R57). -/
def setAna (ch : Channel) (v : Half) (s : State) : State := { s with ana := s.ana.set ch.toNat v }

/-- `VER_MAJOR <- major` and `VER_MINOR <- minor` (41_data_bytes.md R139). -/
def setVersion (major minor : Data7) (s : State) : State := { s with verMajor := major, verMinor := minor }

/-- The events of a step, on the output list and on the event outputs. -/
def emitEvents (w : EventWord) (es : List Event) (s : State) : State := { s with evt := w, events := es }

/-! ### The I2C reply latch -/

/-- The latch is written in full by one step (40_sysex.md R108; 20_memory.md R57). -/
def latchReply (address register : Half) (payload : List Byte) (s : State) : State :=
  { s with
    i2cAddr := address
    i2cReg := register
    i2cLen := BitVec.ofNat 8 payload.length
    i2cPl := Memory.ofBytes 0 payload }

/-- `I2C_PL[j]`: the stored byte below I2C_LEN, and any value from there on (10_state.md R31, R36; log entry 10). -/
def payloadByte (s : State) (j : Nat) : Byte :=
  if j < s.i2cLen.toNat then s.i2cPl.read j else Config.freePayload s.draw j

/-- The payload the latch holds: its entries below I2C_LEN. -/
def latchedPayload (s : State) : List Byte := (List.range s.i2cLen.toNat).map (payloadByte s)

end Sys2Proof.Machine
end

