-- ==== Sys2Proof/Machine/Flags.lean ====
section
/-! DEFINITION. The computed conditions of the block. It has no condition codes (10_state.md R30); what it computes from values is the
change mask of a digital message and its events (41_data_bytes.md R136), the range check (R134), and the I2C frame validator with the
reassembly of its values (40_sysex.md R105 to R107). -/

namespace Sys2Proof.Machine

/-! ### Change detection -/

/-- `mask = (old ^ v) & 0xFF` (R136). -/
def changeMask (old v : Half) : Byte := lowByte (old ^^^ v)

/-- The events of a mask and of the new levels, by ascending bit (R136; 10_state.md R39). -/
def maskEvents (ch : Channel) (mask bits : Byte) : List Event :=
  (List.range 8).filterMap (fun i =>
    if mask.getLsbD i then some (.digitalChanged (pinNumber ch i) (bits.getLsbD i)) else none)

/-- `digital_events(ch, old, v)` (R136). -/
def digitalEvents (ch : Channel) (old v : Half) : List Event := maskEvents ch (changeMask old v) (lowByte v)

/-- The digital event word, valid only if the mask is not 0 (R136; 10_state.md R39). -/
def digitalWord (ch : Channel) (old v : Half) : EventWord :=
  if changeMask old v = 0#8 then .none else .digital ch (changeMask old v) (lowByte v)

/-- The analog event word (10_state.md R39). -/
def analogWord (ch : Channel) (v : Half) : EventWord := .analog ch (v.setWidth 14)

/-! ### The range check -/

/-- `ch >= count` (R134). -/
def outOfRange (ch : Channel) (count : Nat) : Bool := decide (count ≤ ch.toNat)

/-! ### The I2C frame validator -/

/-- `i2c_valid(S)`: the count first, then the subtype (R105, R106). -/
def replyValid (s : State) : Bool :=
  decide (s.cfg.replyMin < s.cnt.toNat) && decide (accByte s 0 = i2cReplyByte)

/-- `n`, the number of complete pairs after the opcode byte (R107). -/
def pairCount (s : State) : Nat := (s.cnt.toNat - 1) / 2

/-- `val[k]` (R107). -/
def pairValue (s : State) (k : Nat) : Half := joinBytes (accByte s (2 * k + 1)) (accByte s (2 * k + 2))

/-- The payload: `val[k] mod 256` for `k` in 2 .. n-1 (R107). -/
def replyPayload (s : State) : List Byte :=
  (List.range (pairCount s - 2)).map (fun j => lowByte (pairValue s (j + 2)))

/-- The decoder state a byte is read in (30_encoding.md R80). -/
def decodeCtx (s : State) : DecodeCtx where
  mode := s.mode
  rem := s.rem
  pOp := s.pOp
  cnt := s.cnt
  reply := replyValid s

/-- The row a byte is in state `s`. -/
def readByte (b : Byte) (s : State) : Instr := decodeByte s.cfg (decodeCtx s) b

end Sys2Proof.Machine
end

