-- ==== Sys2Proof/Machine/Data.lean ====
section
/-! DEFINITION. Data bytes and the register write multiplexer (41_data_bytes.md). -/

namespace Sys2Proof.Machine

/-! ### The three completions -/

/-- The digital branch of R132: the range check (R134), then R135 and R136. -/
def digitalBranch (d : Data7) (s : State) : State :=
  let v := joinData s.d0 d
  if outOfRange s.pCh s.cfg.numPorts then raiseFault .digRange s.pCh (consumeByte s)
  else
    emitEvents (digitalWord s.pCh (portOf s s.pCh) v) (digitalEvents s.pCh (portOf s s.pCh) v)
      (setPort s.pCh v (finishCommand (consumeByte s)))

/-- The analog branch of R132: the range check (R134), then R137 and R138. -/
def analogBranch (d : Data7) (s : State) : State :=
  let v := joinData s.d0 d
  if outOfRange s.pCh s.cfg.numAnalog then raiseFault .anaRange s.pCh (consumeByte s)
  else
    emitEvents (analogWord s.pCh v) [.analogChanged s.pCh v] (setAna s.pCh v (finishCommand (consumeByte s)))

/-- The version branch of R132: R139. No event, no range check. -/
def versionBranch (d : Data7) (s : State) : State :=
  setVersion s.d0 d (finishCommand (consumeByte s))

/-! ### The rows -/

/-- FIRST_DATA (R130). -/
def execFirstData (d : Data7) (s : State) : Host.Outcome State Fault Refusal :=
  .next (storeFirst d (consumeByte s))

/-- SECOND_DATA (R132): the multiplexer, by `P_OP` (R140). A `P_OP` that is none of the three opcodes selects no target; log entry 8. -/
def execSecondData (d : Data7) (s : State) : Host.Outcome State Fault Refusal :=
  if s.pOp = s.cfg.opDigital then .next (digitalBranch d s)
  else if s.pOp = s.cfg.opAnalog then .next (analogBranch d s)
  else if s.pOp = s.cfg.opVersion then .next (versionBranch d s)
  else .next (finishCommand (consumeByte s))

/-- DIGITAL_COMPLETE (R135, R136): the second data byte of a digital message. -/
def execDigitalComplete (d : Data7) (s : State) : Host.Outcome State Fault Refusal := .next (digitalBranch d s)

/-- ANALOG_COMPLETE (R137, R138): the second data byte of an analog message. -/
def execAnalogComplete (d : Data7) (s : State) : Host.Outcome State Fault Refusal := .next (analogBranch d s)

/-- VERSION_COMPLETE (R139): the second data byte of a version reply. -/
def execVersionComplete (d : Data7) (s : State) : Host.Outcome State Fault Refusal := .next (versionBranch d s)

end Sys2Proof.Machine
end

