-- ==== Sys2Proof/Machine/Leading.lean ====
section
/-! DEFINITION. Leading bytes (42_leading_bytes.md): the starts of R161, R163 and R164, and the drops of R162 and R165. In AWAIT a start
replaces the pending command and a drop leaves it (R166): neither reads it. -/

namespace Sys2Proof.Machine

/-- `drop` (00_scope.md R14): nothing but `LAST_ACT`, and no event. -/
def dropByte (s : State) : Host.Outcome State Fault Refusal := .next (consumeByte s)

/-! ### Starts -/

/-- START_COMMAND, digital (R161). -/
def execStartDigital (ch : Channel) (s : State) : Host.Outcome State Fault Refusal :=
  .next (startCommand s.cfg.opDigital ch (consumeByte s))

/-- START_COMMAND, analog (R161). -/
def execStartAnalog (ch : Channel) (s : State) : Host.Outcome State Fault Refusal :=
  .next (startCommand s.cfg.opAnalog ch (consumeByte s))

/-- START_COMMAND, version in nibble form (R161): the channel is stored and not used (92_eei_decisions.md D27). -/
def execStartVersionNibble (ch : Channel) (s : State) : Host.Outcome State Fault Refusal :=
  .next (startCommand s.cfg.opVersion ch (consumeByte s))

/-- START_VERSION_FULL (R163): the channel is 0 (30_encoding.md R71). -/
def execStartVersionFull (s : State) : Host.Outcome State Fault Refusal :=
  .next (startCommand s.cfg.opVersion 0#4 (consumeByte s))

/-- START_SYSEX (R164). -/
def execStartSysex (s : State) : Host.Outcome State Fault Refusal := .next (openSysex (consumeByte s))

/-! ### Drops -/

/-- DROP_CHANNEL_BYTE, a data byte in IDLE (R162). -/
def execDropDataByte (_d : Data7) (s : State) : Host.Outcome State Fault Refusal := dropByte s

/-- DROP_CHANNEL_BYTE, nibble 0x80 (R162). -/
def execDropNibble80 (_ch : Channel) (s : State) : Host.Outcome State Fault Refusal := dropByte s

/-- DROP_CHANNEL_BYTE, nibble 0x90 (R162). -/
def execDropNibble90 (_ch : Channel) (s : State) : Host.Outcome State Fault Refusal := dropByte s

/-- DROP_CHANNEL_BYTE, nibble 0xA0 (R162). -/
def execDropNibbleA0 (_ch : Channel) (s : State) : Host.Outcome State Fault Refusal := dropByte s

/-- DROP_CHANNEL_BYTE, nibble 0xB0 (R162). -/
def execDropNibbleB0 (_ch : Channel) (s : State) : Host.Outcome State Fault Refusal := dropByte s

/-- DROP_CHANNEL_BYTE, nibble 0xC0 (R162). -/
def execDropNibbleC0 (_ch : Channel) (s : State) : Host.Outcome State Fault Refusal := dropByte s

/-- DROP_CHANNEL_BYTE, nibble 0xD0 (R162). -/
def execDropNibbleD0 (_ch : Channel) (s : State) : Host.Outcome State Fault Refusal := dropByte s

/-- DROP_CHANNEL_BYTE, nibble 0xE0 (R162). -/
def execDropNibbleE0 (_ch : Channel) (s : State) : Host.Outcome State Fault Refusal := dropByte s

/-- DROP_SYSTEM_BYTE, 0xF1 (R165). -/
def execDropSystemF1 (s : State) : Host.Outcome State Fault Refusal := dropByte s

/-- DROP_SYSTEM_BYTE, 0xF2 (R165). -/
def execDropSystemF2 (s : State) : Host.Outcome State Fault Refusal := dropByte s

/-- DROP_SYSTEM_BYTE, 0xF3 (R165). -/
def execDropSystemF3 (s : State) : Host.Outcome State Fault Refusal := dropByte s

/-- DROP_SYSTEM_BYTE, 0xF4 (R165). -/
def execDropSystemF4 (s : State) : Host.Outcome State Fault Refusal := dropByte s

/-- DROP_SYSTEM_BYTE, 0xF5 (R165). -/
def execDropSystemF5 (s : State) : Host.Outcome State Fault Refusal := dropByte s

/-- DROP_SYSTEM_BYTE, 0xF6 (R165). -/
def execDropSystemF6 (s : State) : Host.Outcome State Fault Refusal := dropByte s

/-- DROP_SYSTEM_BYTE, 0xF7 (R165). -/
def execDropSystemF7 (s : State) : Host.Outcome State Fault Refusal := dropByte s

/-- DROP_SYSTEM_BYTE, 0xF8 (R165). -/
def execDropSystemF8 (s : State) : Host.Outcome State Fault Refusal := dropByte s

/-- DROP_SYSTEM_BYTE, 0xF9 (R165). -/
def execDropSystemF9 (s : State) : Host.Outcome State Fault Refusal := dropByte s

/-- DROP_SYSTEM_BYTE, 0xFA (R165). -/
def execDropSystemFA (s : State) : Host.Outcome State Fault Refusal := dropByte s

/-- DROP_SYSTEM_BYTE, 0xFB (R165). -/
def execDropSystemFB (s : State) : Host.Outcome State Fault Refusal := dropByte s

/-- DROP_SYSTEM_BYTE, 0xFC (R165). -/
def execDropSystemFC (s : State) : Host.Outcome State Fault Refusal := dropByte s

/-- DROP_SYSTEM_BYTE, 0xFD (R165). -/
def execDropSystemFD (s : State) : Host.Outcome State Fault Refusal := dropByte s

/-- DROP_SYSTEM_BYTE, 0xFE (R165). -/
def execDropSystemFE (s : State) : Host.Outcome State Fault Refusal := dropByte s

/-- DROP_SYSTEM_BYTE, 0xFF (R165). -/
def execDropSystemFF (s : State) : Host.Outcome State Fault Refusal := dropByte s

end Sys2Proof.Machine
end

