-- ==== Sys2Proof/Machine/Sysex.lean ====
section
/-! DEFINITION. The bytes of a sysex body and its end (40_sysex.md), and a byte offered in HALTED (60_exceptions.md R206). -/

namespace Sys2Proof.Machine

/-- `emit_i2c(S)` (R107, R108), from the accumulator as the step finds it, then `CNT <- 0` and `MODE <- IDLE` (R104). -/
def emitReply (s : State) : Host.Outcome State Fault Refusal :=
  if s.cfg.plMax < (replyPayload s).length then .fault .payloadIndex
  else
    .next (closeSysex (latchReply (pairValue s 0) (pairValue s 1) (replyPayload s)
      (emitEvents .i2c [.i2cReceived (pairValue s 0) (pairValue s 1) (replyPayload s)] (consumeByte s))))

/-- APPEND (R100): all eight bits of `b`, as received. An index at or above SYSEX_CAP does not exist; log entry 13. -/
def execAppend (b : Byte) (s : State) : Host.Outcome State Fault Refusal :=
  if s.cnt.toNat < s.cfg.sysexCap then .next (pushBody b (consumeByte s)) else .fault .accIndex

/-- OVERFLOW (R101): the accumulator is discarded, and `b` is not stored. -/
def execOverflow (_b : Byte) (s : State) : Host.Outcome State Fault Refusal := .next (closeSysex (consumeByte s))

/-- FINALIZE (R104): a valid reply is emitted, any other frame is discarded silently. -/
def execFinalize (s : State) : Host.Outcome State Fault Refusal :=
  if replyValid s then emitReply s else .next (closeSysex (consumeByte s))

/-- EMIT_I2C (R108): the END_SYSEX of a valid reply. -/
def execEmitI2c (s : State) : Host.Outcome State Fault Refusal := emitReply s

/-- IGNORED (HALTED) (R206): the byte is not consumed, and no register changes (10_state.md R37); log entry 16. -/
def execIgnoredHalted (_b : Byte) (s : State) : Host.Outcome State Fault Refusal := .next (clearEvents s)

end Sys2Proof.Machine
end

