-- ==== Sys2Proof/Machine/Dispatch.lean ====
section
/-! DEFINITION. Every instruction's meaning. -/

namespace Sys2Proof.Machine

/-- The meaning of an instruction in a state. -/
def exec (i : Instr) (s : State) : Host.Outcome State Fault Refusal :=
  match i with
  | .firstData d => Sys2Proof.Machine.execFirstData d s
  | .secondData d => Sys2Proof.Machine.execSecondData d s
  | .digitalComplete d => Sys2Proof.Machine.execDigitalComplete d s
  | .analogComplete d => Sys2Proof.Machine.execAnalogComplete d s
  | .versionComplete d => Sys2Proof.Machine.execVersionComplete d s
  | .dropDataByte d => Sys2Proof.Machine.execDropDataByte d s
  | .startDigital ch => Sys2Proof.Machine.execStartDigital ch s
  | .startAnalog ch => Sys2Proof.Machine.execStartAnalog ch s
  | .startVersionNibble ch => Sys2Proof.Machine.execStartVersionNibble ch s
  | .dropNibble80 ch => Sys2Proof.Machine.execDropNibble80 ch s
  | .dropNibble90 ch => Sys2Proof.Machine.execDropNibble90 ch s
  | .dropNibbleA0 ch => Sys2Proof.Machine.execDropNibbleA0 ch s
  | .dropNibbleB0 ch => Sys2Proof.Machine.execDropNibbleB0 ch s
  | .dropNibbleC0 ch => Sys2Proof.Machine.execDropNibbleC0 ch s
  | .dropNibbleD0 ch => Sys2Proof.Machine.execDropNibbleD0 ch s
  | .dropNibbleE0 ch => Sys2Proof.Machine.execDropNibbleE0 ch s
  | .startSysex => Sys2Proof.Machine.execStartSysex s
  | .startVersionFull => Sys2Proof.Machine.execStartVersionFull s
  | .dropSystemF1 => Sys2Proof.Machine.execDropSystemF1 s
  | .dropSystemF2 => Sys2Proof.Machine.execDropSystemF2 s
  | .dropSystemF3 => Sys2Proof.Machine.execDropSystemF3 s
  | .dropSystemF4 => Sys2Proof.Machine.execDropSystemF4 s
  | .dropSystemF5 => Sys2Proof.Machine.execDropSystemF5 s
  | .dropSystemF6 => Sys2Proof.Machine.execDropSystemF6 s
  | .dropSystemF7 => Sys2Proof.Machine.execDropSystemF7 s
  | .dropSystemF8 => Sys2Proof.Machine.execDropSystemF8 s
  | .dropSystemF9 => Sys2Proof.Machine.execDropSystemF9 s
  | .dropSystemFA => Sys2Proof.Machine.execDropSystemFA s
  | .dropSystemFB => Sys2Proof.Machine.execDropSystemFB s
  | .dropSystemFC => Sys2Proof.Machine.execDropSystemFC s
  | .dropSystemFD => Sys2Proof.Machine.execDropSystemFD s
  | .dropSystemFE => Sys2Proof.Machine.execDropSystemFE s
  | .dropSystemFF => Sys2Proof.Machine.execDropSystemFF s
  | .append b => Sys2Proof.Machine.execAppend b s
  | .overflow b => Sys2Proof.Machine.execOverflow b s
  | .finalize => Sys2Proof.Machine.execFinalize s
  | .emitI2c => Sys2Proof.Machine.execEmitI2c s
  | .ignoredHalted b => Sys2Proof.Machine.execIgnoredHalted b s

end Sys2Proof.Machine
end

