-- ==== Sys2Proof/Machine/Step.lean ====
section
/-! DEFINITION. One rising edge (10_state.md R37; 60_exceptions.md R208), and how the host offers one byte to it. -/

namespace Sys2Proof.Machine

/-- The step an edge performs on its input (00_scope.md R15; 30_encoding.md R80). -/
def stepOn (i : Input) (s : State) : Host.Outcome State Fault Refusal :=
  match i with
  | .reset t0 => .next (resetStep t0 s)
  | .transportError => .next (transportError s)
  | .byte b => exec (readByte b s) s
  | .quiet => .next (clearEvents s)

/-- One rising edge: the values on the input ports name the input, and the next values follow. -/
def step (s : State) : Host.Outcome State Fault Refusal :=
  match stepOn (inputOf (pinsNow s)) s with
  | .next t => .next (nextEdge t)
  | .fault f => .fault f
  | .refused r => .refused r

/-- `s` with the bytes of a table word offered at the next edge, at the time `s` already holds (log entry 3). -/
def State.withFetchWord (s : State) (nbits w : Nat) : State :=
  offerStream ((tableBytes nbits w).map (fun b => (b, s.lastAct))) s

end Sys2Proof.Machine
end

