-- ==== Sys2Proof/Machine/Frames.lean ====
section
/-! DEFINITION. The frame notation of 30_encoding.md R84 and the frame formats of R72 to R74: the bytes a frame expands to. -/

namespace Sys2Proof.Machine

/-- `v & 0x7F` of a 14-bit value, as a byte (20_memory.md R50). -/
def lowGroup (v : BitVec 14) : Byte := (v.extractLsb' 0 7).setWidth 8

/-- `v >> 7` of a 14-bit value, as a byte (R50). -/
def highGroup (v : BitVec 14) : Byte := (v.extractLsb' 7 7).setWidth 8

/-- `DIG(p, v)`. -/
def digFrame (c : Config) (p : Channel) (v : BitVec 14) : List Byte :=
  [c.opDigital ||| p.setWidth 8, lowGroup v, highGroup v]

/-- `ANA(c, v)`. -/
def anaFrame (c : Config) (ch : Channel) (v : BitVec 14) : List Byte :=
  [c.opAnalog ||| ch.setWidth 8, lowGroup v, highGroup v]

/-- `VER(M, m)`: the full byte `OP_VERSION`, or `OP_VERSION | 0`, which is the same byte. -/
def verFrame (c : Config) (major minor : Data7) : List Byte :=
  [c.opVersion, major.setWidth 8, minor.setWidth 8]

/-- `SYSEX(x0, ..., xn)`. -/
def sysexFrame (body : List Byte) : List Byte := startSysexByte :: body ++ [endSysexByte]

/-- The two bytes of each value, low group first (R74). -/
def pairBytes : List (BitVec 14) → List Byte
  | [] => []
  | v :: vs => lowGroup v :: highGroup v :: pairBytes vs

/-- The body of `I2CREPLY(a, r, v0, ..., vn)`, the opcode byte included. -/
def replyBody (a r : BitVec 14) (vs : List (BitVec 14)) : List Byte := i2cReplyByte :: pairBytes (a :: r :: vs)

/-- `I2CREPLY(a, r, v0, ..., vn)`. -/
def replyFrame (a r : BitVec 14) (vs : List (BitVec 14)) : List Byte := sysexFrame (replyBody a r vs)

end Sys2Proof.Machine
end

