-- ==== Sys2Proof/Machine/Outputs.lean ====
section
/-! DEFINITION. The output ports (10_state.md R36, R38): combinational functions of the state and of the values on the input ports,
with no side effect. -/

namespace Sys2Proof.Machine

/-- `dig_evt_valid`. -/
def isDigital (w : EventWord) : Bool := match w with | .digital .. => true | _ => false

/-- `ana_evt_valid`. -/
def isAnalog (w : EventWord) : Bool := match w with | .analog .. => true | _ => false

/-- The output ports in state `s`. -/
def outputs (s : State) : Outputs where
  rxReady := decide (s.mode ≠ .halted) && !(pinsNow s).rst
  digEvtValid := isDigital s.evt
  digEvtPort := match s.evt with | .digital p _ _ => p | _ => Config.freeDigPort s.draw
  digEvtMask := match s.evt with | .digital _ m _ => m | _ => Config.freeDigMask s.draw
  digEvtBits := match s.evt with | .digital _ _ b => b | _ => Config.freeDigBits s.draw
  anaEvtValid := isAnalog s.evt
  anaEvtCh := match s.evt with | .analog c _ => c | _ => Config.freeAnaCh s.draw
  anaEvtValue := match s.evt with | .analog _ v => v | _ => Config.freeAnaValue s.draw
  i2cEvtValid := decide (s.evt = .i2c)
  portData := portOf s (pinsNow s).portIdx
  anaData := anaOf s (pinsNow s).anaIdx
  verMajor := s.verMajor
  verMinor := s.verMinor
  i2cAddr := s.i2cAddr
  i2cReg := s.i2cReg
  i2cLen := s.i2cLen
  i2cPl := payloadByte s (pinsNow s).plIdx.toNat
  lastAct := s.lastAct
  state := modeCode s.mode
  fault := causeCode s.fault
  faultCh := s.faultCh

end Sys2Proof.Machine
end

