-- ==== Sys2Proof/Safety.lean ====
section
/-! DEFINITION. The invariant of the block's states (10_state.md R41 and the rules beside it) and what a run is (70_reset_and_hazards.md
R245). -/

namespace Sys2Proof.Machine

/-- The states the block can be in: the items of R41, with what R29, R132 and the model's own data add. Every field says which. -/
structure Inv (s : State) : Prop where
  /-- The configuration meets its constraints (00_scope.md R5 to R10). -/
  cfgValid : s.cfg.Valid
  /-- R41: AWAIT implies REM is 1 or 2. -/
  awaitRem : s.mode = .await → s.rem = 1#2 ∨ s.rem = 2#2
  /-- 41_data_bytes.md R132: in AWAIT P_OP is one of the three opcodes. -/
  awaitOp : s.mode = .await → s.pOp = s.cfg.opDigital ∨ s.pOp = s.cfg.opAnalog ∨ s.pOp = s.cfg.opVersion
  /-- R41: in IDLE and AWAIT the accumulator is empty. -/
  restEmpty : s.mode = .idle ∨ s.mode = .await → s.cnt = 0#8
  /-- R41: CNT is at most SYSEX_CAP. -/
  countCap : s.cnt.toNat ≤ s.cfg.sysexCap
  /-- R41, R25: PORT[i][15:14] = 0. -/
  portTop : ∀ ch, (portOf s ch).toNat < 0x4000
  /-- R41, R26: ANA[i][15:14] = 0. -/
  anaTop : ∀ ch, (anaOf s ch).toNat < 0x4000
  /-- R41: HALTED if and only if FAULT is not NONE. -/
  haltFault : s.mode = .halted ↔ s.fault ≠ .none
  /-- R29: FAULT_CH is 0 but for the two range causes. -/
  faultChannel : s.fault = .none ∨ s.fault = .transport → s.faultCh = 0#4
  /-- R41: I2C_LEN is at most PL_MAX. -/
  latchLen : s.i2cLen.toNat ≤ s.cfg.plMax
  /-- R41: no port register at or above NUM_PORTS was written. -/
  portUnused : ∀ ch, s.cfg.numPorts ≤ ch.toNat → portOf s ch = 0#16
  /-- R41: no analog register at or above NUM_ANALOG was written. -/
  anaUnused : ∀ ch, s.cfg.numAnalog ≤ ch.toNat → anaOf s ch = 0#16
  /-- The model's own data: ACC is in canonical form. -/
  accWf : Memory.wf s.acc
  /-- The model's own data: ACC lists entries below CNT only. -/
  accLive : ∀ c ∈ s.acc, c.1 < s.cnt.toNat
  /-- The model's own data: I2C_PL is in canonical form. -/
  payloadWf : Memory.wf s.i2cPl
  /-- The model's own data: I2C_PL lists entries below I2C_LEN only. -/
  payloadLive : ∀ c ∈ s.i2cPl, c.1 < s.i2cLen.toNat
  /-- R28: LAST_ACT has TIME_W bits. -/
  timeWidth : s.lastAct < 2 ^ s.cfg.timeW

/-- `k` edges: the final state and the concatenated event list in step order (R245), where no step stops. -/
def runEdges : Nat → State → Option (State × List Event)
  | 0, s => some (s, [])
  | k + 1, s =>
    match step s with
    | .next t => (runEdges k t).map (fun r => (r.1, t.events ++ r.2))
    | _ => none

/-- The bytes of a stream offered one an edge, at the times given (95_test_vectors.md section 0), until all are consumed. -/
def runStream (bs : List (Byte × Nat)) (s : State) : Option (State × List Event) := runEdges bs.length (offerStream bs s)

/-- How a run ends (R245). -/
inductive RunEnd where
  /-- *good*: the final MODE is IDLE. -/
  | good
  /-- *with a frame pending*: the final MODE is AWAIT or SYSEX. -/
  | pending
  /-- *faulted*: the final MODE is HALTED. -/
  | faulted
deriving DecidableEq, Repr

/-- The end of a run in state `s` (R245). -/
def runEnd (s : State) : RunEnd :=
  match s.mode with
  | .idle => .good
  | .await | .sysex => .pending
  | .halted => .faulted

end Sys2Proof.Machine
end

