-- ==== Sys2Proof/Certificates/Slice0/Obligations.lean ====
section
/-! DEFINITION. The statements for the provers. Each docstring names the rules of spec/ it formalises; where a clause is the model's own
choice, it names the log entry. -/

open Sys2Proof Sys2Proof.Machine

/-! ### Reading a byte -/

/-- 30_encoding.md R83: some words of every family, in the decoder states the opcode map gives them, at the reference configuration. The
map reads a second data byte as 'second data byte, dispatch' and 0xF7 in SYSEX as 'END_SYSEX: finalize'; that they are read as
`digitalComplete`, `analogComplete` or `versionComplete` by P_OP, and as `emitI2c` for an accepted reply, is the model's choice of row (log
entry 6). -/
def Obligations.DecoderReadsOpcodeMapWords : Prop :=
  let c := Config.reference
  let idle : DecodeCtx := resetCtx
  let sysex : DecodeCtx := { mode := .sysex, rem := 0#2, pOp := 0#8, cnt := 5#8, reply := false }
  let await : DecodeCtx := { mode := .await, rem := 2#2, pOp := 0x90#8, cnt := 0#8, reply := false }
  decode c idle [0b10010011#8] = .ok (.startDigital 3#4, []) ∧
  decode c idle [0b11100101#8] = .ok (.startAnalog 5#4, []) ∧
  decode c idle [0b11111001#8] = .ok (.startVersionFull, []) ∧
  decode c idle [0b11110000#8] = .ok (.startSysex, []) ∧
  decode c idle [0b11110111#8] = .ok (.dropSystemF7, []) ∧
  decode c idle [0b01111111#8] = .ok (.dropDataByte 0x7F#7, []) ∧
  decode c await [0b01111111#8] = .ok (.firstData 0x7F#7, []) ∧
  decode c { await with rem := 1#2 } [0b00000101#8] = .ok (.digitalComplete 5#7, []) ∧
  decode c { await with rem := 1#2, pOp := 0xE0#8 } [0b00000101#8] = .ok (.analogComplete 5#7, []) ∧
  decode c { await with rem := 1#2, pOp := 0xF9#8 } [0b00000101#8] = .ok (.versionComplete 5#7, []) ∧
  decode c sysex [0b11110000#8] = .ok (.append 0xF0#8, []) ∧
  decode c { sysex with cnt := 64#8 } [0b00000001#8] = .ok (.overflow 1#8, []) ∧
  decode c sysex [0b11110111#8] = .ok (.finalize, []) ∧
  decode c { sysex with reply := true } [0b11110111#8] = .ok (.emitI2c, []) ∧
  decode c { idle with mode := .halted } [0b10010011#8] = .ok (.ignoredHalted 0x93#8, []) ∧
  decode c idle [] = .error .noByte

/-- 30_encoding.md R70 to R72, R83: in every valid configuration and every decoder state, decoding the encoding of an instruction that is
well formed there and stands in that state gives it back, every operand at every value, and leaves the bytes behind it. Which row stands
where two share a byte and a state is the model's choice (log entry 6). -/
def Obligations.DecodeOfEncodeIsTheInstruction : Prop :=
  ∀ (c : Config) (x : DecodeCtx) (i : Instr) (rest : List Byte), c.Valid → i.WellFormed c → i.StandsIn c x →
    decode c x (encode c i ++ rest) = .ok (i, rest)

/-- 30_encoding.md R70, R79 ("No encoding traps"), R80: in every valid configuration and decoder state every byte is read as one
instruction, which exists in the configuration, stands in the state by the table, and has that byte as its encoding. Which row stands where
two share a byte and a state is the model's choice (log entry 6). -/
def Obligations.EveryByteIsOneWellFormedRow : Prop :=
  ∀ (c : Config) (x : DecodeCtx) (b : Byte), c.Valid →
    ∃ i, decode c x [b] = .ok (i, []) ∧ i.WellFormed c ∧ i.StandsIn c x ∧ encode c i = [b]

/-- No two rows of the table share a byte in one decoder state: instructions of equal encoding that stand in one state are equal. The
split of SECOND_DATA and FINALIZE from their special rows is the model's choice (log entry 6). -/
def Obligations.RowsDoNotOverlapInAState : Prop :=
  ∀ (c : Config) (x : DecodeCtx) (i j : Instr), c.Valid → i.WellFormed c → j.WellFormed c → i.StandsIn c x → j.StandsIn c x →
    encode c i = encode c j → i = j

/-! ### The step -/

/-- 10_state.md R37, 30_encoding.md R80: when a byte is offered that decodes in the decoder state to a well-formed instruction `i`, the
step is `exec` of `i`, and then the next values stand on the input ports and the model's counter for free values has moved on (log
entries 2 and 12). -/
def Obligations.StepRunsTheDecodedInstruction : Prop :=
  ∀ (s : State) (b : Byte) (i : Instr) (rest : List Byte), (pinsNow s).rst = false → (pinsNow s).rxErr = false →
    (pinsNow s).rxValid = true → (pinsNow s).rxData = b → decode s.cfg (decodeCtx s) (b :: rest) = .ok (i, rest) →
    i.WellFormed s.cfg →
    step s = match exec i s with
      | .next t => .next { t with inputs := t.inputs.tail, draw := t.draw + 1 }
      | .fault f => .fault f
      | .refused r => .refused r

/-- 60_exceptions.md R208: `rst` first, then `rx_err`, then a byte. -/
def Obligations.InputPriorityAtOneEdge : Prop :=
  ∀ p : Pins,
    (p.rst = true → inputOf p = .reset p.now) ∧
    (p.rst = false → p.rxErr = true → inputOf p = .transportError) ∧
    (p.rst = false → p.rxErr = false → p.rxValid = true → inputOf p = .byte p.rxData) ∧
    (p.rst = false → p.rxErr = false → p.rxValid = false → inputOf p = .quiet)

/-- 70_reset_and_hazards.md R230 with 10_state.md R40: an edge with `rst = 1`, whatever else is on the ports and from any state, HALTED
included, sets every field to its reset value with `LAST_ACT <- now`. The edges to come and the counter are the model's own (log entries 2,
12). -/
def Obligations.ResetEdgeSetsEveryField : Prop :=
  ∀ s : State, (pinsNow s).rst = true →
    step s = .next
      { cfg := s.cfg, mode := .idle, pOp := 0#8, pCh := 0#4, rem := 0#2, d0 := 0#7, acc := [], cnt := 0#8,
        port := Vector.replicate 16 0#16, ana := Vector.replicate 16 0#16, verMajor := 0#7, verMinor := 0#7,
        lastAct := (pinsNow s).now % 2 ^ s.cfg.timeW, fault := .none, faultCh := 0#4, i2cAddr := 0#16, i2cReg := 0#16,
        i2cLen := 0#8, i2cPl := [], evt := .none, events := [], inputs := s.inputs.tail, draw := s.draw + 1 }

/-- 10_state.md R40: what reset leaves, read through the model's reads. `State.reset` is the state after `Reset(0)` at the reference
configuration, the model's choice of `t0` and of `cfg` (log entries 1, 4). -/
def Obligations.ResetLeavesTheResetTable : Prop :=
  State.reset = State.resetAt Config.reference 0 ∧
  ∀ (c : Config) (t0 : Nat), (State.resetAt c t0).mode = .idle ∧ (State.resetAt c t0).pOp = 0#8 ∧ (State.resetAt c t0).pCh = 0#4 ∧
    (State.resetAt c t0).rem = 0#2 ∧ (State.resetAt c t0).d0 = 0#7 ∧ (State.resetAt c t0).cnt = 0#8 ∧
    (∀ i, (State.resetAt c t0).acc.read i = 0#8) ∧ (∀ ch, portOf (State.resetAt c t0) ch = 0#16) ∧
    (∀ ch, anaOf (State.resetAt c t0) ch = 0#16) ∧ (State.resetAt c t0).verMajor = 0#7 ∧ (State.resetAt c t0).verMinor = 0#7 ∧
    (State.resetAt c t0).lastAct = t0 % 2 ^ c.timeW ∧ (State.resetAt c t0).fault = .none ∧ (State.resetAt c t0).faultCh = 0#4 ∧
    (State.resetAt c t0).i2cAddr = 0#16 ∧ (State.resetAt c t0).i2cReg = 0#16 ∧ (State.resetAt c t0).i2cLen = 0#8 ∧
    (∀ i, (State.resetAt c t0).i2cPl.read i = 0#8) ∧ (State.resetAt c t0).evt = .none

/-- 60_exceptions.md R202, R205: a transport error halts a block that is not halted, with cause TRANSPORT and channel 0; nothing else of
the block changes, `LAST_ACT` included, and no event is emitted. A halted block keeps its first cause. -/
def Obligations.TransportErrorHaltsPrecisely : Prop :=
  ∀ s : State, (pinsNow s).rst = false → (pinsNow s).rxErr = true →
    (s.mode ≠ .halted → step s = .next { s with
      mode := .halted
      fault := .transport
      faultCh := 0#4
      evt := .none
      events := []
      inputs := s.inputs.tail
      draw := s.draw + 1 }) ∧
    (s.mode = .halted → step s = .next { s with evt := .none, events := [], inputs := s.inputs.tail, draw := s.draw + 1 })

/-- 10_state.md R37, 60_exceptions.md R216: an edge with no input leaves every register unchanged and clears the event outputs. -/
def Obligations.QuietEdgeKeepsEveryRegister : Prop :=
  ∀ s : State, (pinsNow s).rst = false → (pinsNow s).rxErr = false → (pinsNow s).rxValid = false →
    step s = .next { s with evt := .none, events := [], inputs := s.inputs.tail, draw := s.draw + 1 }

/-! ### What each instruction gives -/

/-- 41_data_bytes.md R130: FIRST_DATA completes in every state: `D0 <- d`, `REM <- 1`, the timestamp, no event, all else unchanged. -/
def Obligations.FirstDataStoresTheByte : Prop :=
  ∀ (d : Data7) (s : State), exec (.firstData d) s =
    .next { s with d0 := d, rem := 1#2, lastAct := (pinsNow s).now % 2 ^ s.cfg.timeW, evt := .none, events := [] }

/-- 41_data_bytes.md R132, R133, R135, R136: DIGITAL_COMPLETE on a port below NUM_PORTS stores `d0 | (d << 7)` whole, emits one event per
changed bit of 7:0 in ascending order, and ends the command; every other field is unchanged. -/
def Obligations.DigitalCompleteWritesThePort : Prop :=
  ∀ (d : Data7) (s : State), s.pCh.toNat < s.cfg.numPorts →
    ∃ v : Half, v.toNat = s.d0.toNat + 128 * d.toNat ∧
      exec (.digitalComplete d) s = .next { s with
        port := s.port.set s.pCh.toNat v
        rem := 0#2
        mode := .idle
        lastAct := (pinsNow s).now % 2 ^ s.cfg.timeW
        evt := if (portOf s s.pCh ^^^ v).setWidth 8 = 0#8 then .none
          else .digital s.pCh ((portOf s s.pCh ^^^ v).setWidth 8) (v.setWidth 8)
        events := (List.range 8).filterMap (fun i =>
          if (portOf s s.pCh).getLsbD i = v.getLsbD i then none
          else some (.digitalChanged (8 * s.pCh.toNat + i) (v.getLsbD i))) }

/-- 41_data_bytes.md R134, 60_exceptions.md R203, R205: DIGITAL_COMPLETE on a port at or above NUM_PORTS halts with DIG_RANGE and the
channel; only `LAST_ACT` is written beside, and no event is emitted. -/
def Obligations.DigitalOutOfRangeHalts : Prop :=
  ∀ (d : Data7) (s : State), s.cfg.numPorts ≤ s.pCh.toNat →
    exec (.digitalComplete d) s = .next { s with
      mode := .halted
      fault := .digRange
      faultCh := s.pCh
      lastAct := (pinsNow s).now % 2 ^ s.cfg.timeW
      evt := .none
      events := [] }

/-- 41_data_bytes.md R132, R133, R137, R138: ANALOG_COMPLETE on a channel below NUM_ANALOG stores the value, emits exactly one event
whatever the register held, and ends the command; every other field is unchanged. -/
def Obligations.AnalogCompleteWritesTheChannel : Prop :=
  ∀ (d : Data7) (s : State), s.pCh.toNat < s.cfg.numAnalog →
    ∃ v : Half, v.toNat = s.d0.toNat + 128 * d.toNat ∧
      exec (.analogComplete d) s = .next { s with
        ana := s.ana.set s.pCh.toNat v
        rem := 0#2
        mode := .idle
        lastAct := (pinsNow s).now % 2 ^ s.cfg.timeW
        evt := .analog s.pCh (v.setWidth 14)
        events := [.analogChanged s.pCh v] }

/-- 41_data_bytes.md R134, 60_exceptions.md R203, R205: ANALOG_COMPLETE on a channel at or above NUM_ANALOG halts with ANA_RANGE. -/
def Obligations.AnalogOutOfRangeHalts : Prop :=
  ∀ (d : Data7) (s : State), s.cfg.numAnalog ≤ s.pCh.toNat →
    exec (.analogComplete d) s = .next { s with
      mode := .halted
      fault := .anaRange
      faultCh := s.pCh
      lastAct := (pinsNow s).now % 2 ^ s.cfg.timeW
      evt := .none
      events := [] }

/-- 41_data_bytes.md R139: VERSION_COMPLETE completes in every state: the first data byte is major, the second minor, no event, no range
check, and the command ends. -/
def Obligations.VersionCompleteWritesBothFields : Prop :=
  ∀ (d : Data7) (s : State), exec (.versionComplete d) s =
    .next { s with
      verMajor := s.d0
      verMinor := d
      rem := 0#2
      mode := .idle
      lastAct := (pinsNow s).now % 2 ^ s.cfg.timeW
      evt := .none
      events := [] }

/-- 41_data_bytes.md R132, R140: SECOND_DATA is the completion `P_OP` selects, and it completes: it answers a next state on every
operand, with the command ended where the channel is below both counts of the board. A `P_OP` that is none of the three selects no
register (log entry 8). -/
def Obligations.SecondDataIsTheSelectedCompletion : Prop :=
  ∀ (d : Data7) (s : State), s.cfg.Valid →
    (s.pOp = s.cfg.opDigital → exec (.secondData d) s = exec (.digitalComplete d) s) ∧
    (s.pOp = s.cfg.opAnalog → exec (.secondData d) s = exec (.analogComplete d) s) ∧
    (s.pOp = s.cfg.opVersion → exec (.secondData d) s = exec (.versionComplete d) s) ∧
    (s.cfg.unassigned s.pOp → exec (.secondData d) s =
      .next { s with rem := 0#2, mode := .idle, lastAct := (pinsNow s).now % 2 ^ s.cfg.timeW, evt := .none, events := [] }) ∧
    ∃ t, exec (.secondData d) s = .next t ∧
      (s.pCh.toNat < s.cfg.numPorts → s.pCh.toNat < s.cfg.numAnalog → t.mode = .idle ∧ t.rem = 0#2 ∧ t.fault = s.fault)

/-- 42_leading_bytes.md R162, R165, 30_encoding.md R79: every drop completes in every state and writes nothing but `LAST_ACT`; a pending
command is left as it is, and no event is emitted. -/
def Obligations.DropsWriteOnlyTheTimestamp : Prop :=
  ∀ (d : Data7) (ch : Channel) (s : State), ∀ i ∈ [Instr.dropDataByte d, .dropNibble80 ch, .dropNibble90 ch, .dropNibbleA0 ch,
      .dropNibbleB0 ch, .dropNibbleC0 ch, .dropNibbleD0 ch, .dropNibbleE0 ch, .dropSystemF1, .dropSystemF2, .dropSystemF3,
      .dropSystemF4, .dropSystemF5, .dropSystemF6, .dropSystemF7, .dropSystemF8, .dropSystemF9, .dropSystemFA, .dropSystemFB,
      .dropSystemFC, .dropSystemFD, .dropSystemFE, .dropSystemFF],
    exec i s = .next { s with lastAct := (pinsNow s).now % 2 ^ s.cfg.timeW, evt := .none, events := [] }

/-- 42_leading_bytes.md R160, R161, R163: every start completes in every state: AWAIT with its opcode and channel and `REM = 2`, the
timestamp, no event, all else unchanged; the full-byte version command has channel 0. -/
def Obligations.StartsOpenACommand : Prop :=
  ∀ (ch : Channel) (s : State),
    exec (.startDigital ch) s = .next { s with
      mode := .await
      pOp := s.cfg.opDigital
      pCh := ch
      rem := 2#2
      lastAct := (pinsNow s).now % 2 ^ s.cfg.timeW
      evt := .none
      events := [] } ∧
    exec (.startAnalog ch) s = .next { s with
      mode := .await
      pOp := s.cfg.opAnalog
      pCh := ch
      rem := 2#2
      lastAct := (pinsNow s).now % 2 ^ s.cfg.timeW
      evt := .none
      events := [] } ∧
    exec (.startVersionNibble ch) s = .next { s with
      mode := .await
      pOp := s.cfg.opVersion
      pCh := ch
      rem := 2#2
      lastAct := (pinsNow s).now % 2 ^ s.cfg.timeW
      evt := .none
      events := [] } ∧
    exec .startVersionFull s = .next { s with
      mode := .await
      pOp := s.cfg.opVersion
      pCh := 0#4
      rem := 2#2
      lastAct := (pinsNow s).now % 2 ^ s.cfg.timeW
      evt := .none
      events := [] }

/-- 42_leading_bytes.md R164: START_SYSEX completes in every state: SYSEX with an empty accumulator, the timestamp, no event, all else
unchanged. That an empty accumulator keeps no stale entry is the model's choice (log entry 9). -/
def Obligations.StartSysexOpensAnEmptyBody : Prop :=
  ∀ s : State, exec .startSysex s = .next { s with
    mode := .sysex
    cnt := 0#8
    acc := []
    lastAct := (pinsNow s).now % 2 ^ s.cfg.timeW
    evt := .none
    events := [] }

/-- 40_sysex.md R100: APPEND completes while CNT is below SYSEX_CAP: `ACC[CNT] <- b`, `CNT <- CNT + 1`, the timestamp, no event; every
other entry of the accumulator and every other field is unchanged. The premise on the array's form is the model's (`Inv.accWf`). -/
def Obligations.AppendStoresTheByte : Prop :=
  ∀ (b : Byte) (s : State), s.cfg.Valid → s.cnt.toNat < s.cfg.sysexCap → Memory.wf s.acc →
    ∃ t, exec (.append b) s = .next t ∧
      t = { s with acc := t.acc, cnt := t.cnt, lastAct := (pinsNow s).now % 2 ^ s.cfg.timeW, evt := .none, events := [] } ∧
      t.cnt.toNat = s.cnt.toNat + 1 ∧ accByte t s.cnt.toNat = b ∧ (∀ i, i < s.cnt.toNat → accByte t i = accByte s i) ∧
      ∀ i, i ≠ s.cnt.toNat → t.acc.read i = s.acc.read i

/-- 10_state.md R23: the accumulator has the entries 0 .. SYSEX_CAP-1 alone; an APPEND past them stops (the model's choice, log entry
13). -/
def Obligations.AppendStopsAtTheCapacity : Prop :=
  ∀ (b : Byte) (s : State), s.cfg.sysexCap ≤ s.cnt.toNat → exec (.append b) s = .fault .accIndex

/-- 40_sysex.md R101: OVERFLOW completes in every state: the accumulator is discarded, the byte is not stored, IDLE, the timestamp, no
event, no fault, all else unchanged. -/
def Obligations.OverflowDiscardsTheBody : Prop :=
  ∀ (b : Byte) (s : State), exec (.overflow b) s = .next { s with
    mode := .idle
    cnt := 0#8
    acc := []
    lastAct := (pinsNow s).now % 2 ^ s.cfg.timeW
    evt := .none
    events := [] }

/-- 40_sysex.md R104, R106: FINALIZE of a frame that is not valid (too short, or its first byte is not 0x77) discards it silently. -/
def Obligations.FinalizeDiscardsAnInvalidFrame : Prop :=
  ∀ s : State, (s.cnt.toNat ≤ s.cfg.replyMin ∨ accByte s 0 ≠ 0x77#8) →
    exec .finalize s = .next { s with
      mode := .idle
      cnt := 0#8
      acc := []
      lastAct := (pinsNow s).now % 2 ^ s.cfg.timeW
      evt := .none
      events := [] }

/-- 40_sysex.md R104, R107, R108: EMIT_I2C completes while CNT is at most SYSEX_CAP. With `n` the complete pairs behind the opcode byte
and `val k = ACC[2k+1] | (ACC[2k+2] << 7)`, one I2CReceived of `val 0`, `val 1` and the low bytes of the others is emitted, the latch holds
the same, the accumulator is discarded, and every other field is unchanged. -/
def Obligations.EmitI2cLatchesTheReply : Prop :=
  ∀ s : State, s.cnt.toNat ≤ s.cfg.sysexCap →
    let val : Nat → Half := fun k =>
      (accByte s (2 * k + 1)).setWidth 16 ||| (accByte s (2 * k + 2)).setWidth 16 <<< 7
    let payload : List Byte := (List.range ((s.cnt.toNat - 1) / 2 - 2)).map (fun j => BitVec.ofNat 8 ((val (j + 2)).toNat % 256))
    ∃ t, exec .emitI2c s = .next t ∧
      t = { s with
        i2cAddr := val 0
        i2cReg := val 1
        i2cLen := BitVec.ofNat 8 ((s.cnt.toNat - 1) / 2 - 2)
        i2cPl := t.i2cPl
        mode := .idle
        cnt := 0#8
        acc := []
        lastAct := (pinsNow s).now % 2 ^ s.cfg.timeW
        evt := .i2c
        events := [.i2cReceived (val 0) (val 1) payload] } ∧
      latchedPayload t = payload

/-- 40_sysex.md R104, R105, R106: FINALIZE of a valid frame is EMIT_I2C and completes. -/
def Obligations.FinalizeEmitsAValidFrame : Prop :=
  ∀ s : State, s.cnt.toNat ≤ s.cfg.sysexCap → s.cfg.replyMin < s.cnt.toNat → accByte s 0 = 0x77#8 →
    exec .finalize s = exec .emitI2c s ∧ ∃ t, exec .finalize s = .next t ∧ t.evt = .i2c ∧ t.mode = .idle ∧ t.cnt = 0#8

/-- 60_exceptions.md R206, 10_state.md R37: a byte offered in HALTED is answered by a next state in which no register changed and no
event output is valid. That it is a next state is the model's choice (log entry 16). -/
def Obligations.IgnoredByteKeepsEveryRegister : Prop :=
  ∀ (b : Byte) (s : State), exec (.ignoredHalted b) s = .next { s with evt := .none, events := [] }

/-- 20_memory.md R53, 40_sysex.md R107: the low byte of a pair of 7-bit groups, and every value below 0x100 surviving the pair it travels
as. -/
def Obligations.PayloadTruncationKeepsEightBits : Prop :=
  (∀ low high : Byte, low < 0x80#8 → high < 0x80#8 → lowByte (joinBytes low high) = low ||| (high &&& 1#8) <<< 7) ∧
  ∀ v : Byte, lowByte (joinBytes (v &&& 0x7F#8) (v >>> 7)) = v

/-! ### Bytes in their states -/

/-- 42_leading_bytes.md R160, R161, R163, R166: in IDLE, or in AWAIT for a byte from 0x80 on, a byte whose high nibble is a configured
opcode, or that is the full-byte version opcode, starts that command with `REM = 2`, whatever was pending; nothing else changes. -/
def Obligations.RecognisedLeadingByteStartsTheCommand : Prop :=
  ∀ (s : State) (b : Byte) (op : Byte) (ch : Channel), s.cfg.Valid → inputOf (pinsNow s) = .byte b →
    (s.mode = .idle ∨ s.mode = .await ∧ 0x80#8 ≤ b) →
    ((op = s.cfg.opDigital ∨ op = s.cfg.opAnalog ∨ s.cfg.opVersion < 0xF0#8 ∧ op = s.cfg.opVersion) ∧
        b &&& 0xF0#8 = op ∧ b &&& 0x0F#8 = ch.setWidth 8 ∨
      0xF0#8 ≤ s.cfg.opVersion ∧ b = s.cfg.opVersion ∧ op = b ∧ ch = 0#4) →
    step s = .next { s with
      mode := .await
      pOp := op
      pCh := ch
      rem := 2#2
      lastAct := (pinsNow s).now % 2 ^ s.cfg.timeW
      evt := .none
      events := []
      inputs := s.inputs.tail
      draw := s.draw + 1 }

/-- 42_leading_bytes.md R162, R165, R166, 30_encoding.md R79: in IDLE, or in AWAIT for a byte from 0x80 on, a byte that is neither a
recognised opcode nor START_SYSEX changes nothing but the timestamp; a pending command survives. -/
def Obligations.UnrecognisedByteChangesOnlyTheTimestamp : Prop :=
  ∀ (s : State) (b : Byte), s.cfg.Valid → inputOf (pinsNow s) = .byte b →
    (s.mode = .idle ∨ s.mode = .await ∧ 0x80#8 ≤ b) →
    b &&& 0xF0#8 ≠ s.cfg.opDigital → b &&& 0xF0#8 ≠ s.cfg.opAnalog →
    ¬ (s.cfg.opVersion < 0xF0#8 ∧ b &&& 0xF0#8 = s.cfg.opVersion) → b ≠ s.cfg.opVersion → b ≠ 0xF0#8 →
    step s = .next { s with
      lastAct := (pinsNow s).now % 2 ^ s.cfg.timeW
      evt := .none
      events := []
      inputs := s.inputs.tail
      draw := s.draw + 1 }

/-- 42_leading_bytes.md R164: 0xF0 in IDLE or in AWAIT opens a sysex with an empty accumulator. -/
def Obligations.StartSysexByteOpensASysex : Prop :=
  ∀ s : State, s.cfg.Valid → inputOf (pinsNow s) = .byte 0xF0#8 → (s.mode = .idle ∨ s.mode = .await) →
    step s = .next { s with
      mode := .sysex
      cnt := 0#8
      acc := []
      lastAct := (pinsNow s).now % 2 ^ s.cfg.timeW
      evt := .none
      events := []
      inputs := s.inputs.tail
      draw := s.draw + 1 }

/-- 41_data_bytes.md R130: a byte below 0x80 in AWAIT with `REM = 2` is stored in `D0`, and `REM` becomes 1; MODE, P_OP and P_CH stay. -/
def Obligations.FirstDataByteIsStored : Prop :=
  ∀ (s : State) (b : Byte), inputOf (pinsNow s) = .byte b → s.mode = .await → s.rem = 2#2 → b < 0x80#8 →
    ∃ d : Data7, d.toNat = b.toNat ∧
      step s = .next { s with
        d0 := d
        rem := 1#2
        lastAct := (pinsNow s).now % 2 ^ s.cfg.timeW
        evt := .none
        events := []
        inputs := s.inputs.tail
        draw := s.draw + 1 }

/-- 40_sysex.md R100: in SYSEX with room, every byte but 0xF7, from 0x80 on too, is stored whole as the next body byte: `ACC[CNT] <- b`,
`CNT <- CNT + 1`, the timestamp, no event; every earlier body byte and every other field is unchanged. The premise on the array's form is
the model's (`Inv.accWf`). -/
def Obligations.BodyByteIsAppended : Prop :=
  ∀ (s : State) (b : Byte), s.cfg.Valid → Memory.wf s.acc → inputOf (pinsNow s) = .byte b → s.mode = .sysex → b ≠ 0xF7#8 →
    s.cnt.toNat < s.cfg.sysexCap →
    ∃ t, step s = .next t ∧
      t = { s with
        acc := t.acc
        cnt := t.cnt
        lastAct := (pinsNow s).now % 2 ^ s.cfg.timeW
        evt := .none
        events := []
        inputs := s.inputs.tail
        draw := s.draw + 1 } ∧
      t.cnt.toNat = s.cnt.toNat + 1 ∧ accByte t s.cnt.toNat = b ∧ ∀ i, i < s.cnt.toNat → accByte t i = accByte s i

/-- 40_sysex.md R101: in SYSEX with a full accumulator, every byte but 0xF7 discards the body, goes to IDLE and is lost. -/
def Obligations.BodyByteOverflowsSilently : Prop :=
  ∀ (s : State) (b : Byte), inputOf (pinsNow s) = .byte b → s.mode = .sysex → b ≠ 0xF7#8 → s.cnt.toNat = s.cfg.sysexCap →
    step s = .next { s with
      mode := .idle
      cnt := 0#8
      acc := []
      lastAct := (pinsNow s).now % 2 ^ s.cfg.timeW
      evt := .none
      events := []
      inputs := s.inputs.tail
      draw := s.draw + 1 }

/-- 40_sysex.md R104, R106: 0xF7 in SYSEX, whatever CNT is, returns to IDLE with `CNT = 0`, the fault cause and the register files
unchanged; an event is emitted exactly when the body is longer than REPLY_MIN and begins with 0x77, and otherwise the latch is unchanged. -/
def Obligations.EndMarkerFinalizesTheSysex : Prop :=
  ∀ s : State, inputOf (pinsNow s) = .byte 0xF7#8 → s.mode = .sysex → s.cnt.toNat ≤ s.cfg.sysexCap →
    ∃ t, step s = .next t ∧ t.mode = .idle ∧ t.cnt = 0#8 ∧ t.fault = s.fault ∧ t.port = s.port ∧ t.ana = s.ana ∧
      ((s.cfg.replyMin < s.cnt.toNat ∧ accByte s 0 = 0x77#8) ↔ t.events ≠ []) ∧
      (¬ (s.cfg.replyMin < s.cnt.toNat ∧ accByte s 0 = 0x77#8) →
        t.i2cAddr = s.i2cAddr ∧ t.i2cReg = s.i2cReg ∧ t.i2cLen = s.i2cLen ∧ t.i2cPl = s.i2cPl)

/-! ### Whole-machine rules -/

/-- 10_state.md R41, with R28, R29, 41_data_bytes.md R132 and the model's own forms (`Inv` says which field is which): every step keeps
the invariant. -/
def Obligations.EveryStepKeepsTheInvariant : Prop :=
  ∀ s t : State, Inv s → step s = .next t → Inv t

/-- 10_state.md R41 ("They hold at reset"): the reset state meets the invariant, in every valid configuration, at every time. -/
def Obligations.ResetMeetsTheInvariant : Prop :=
  ∀ (c : Config) (t0 : Nat), c.Valid → Inv (State.resetAt c t0)

/-- 00_scope.md section 4, 60_exceptions.md section 1: no state that meets the invariant stops; errors are halts, and a halt is a state. A
byte offered in HALTED, for which the spec has no step, is an edge that answers a next state: the model's choice (log entry 16), by what
10_state.md R37 says of an edge that consumes nothing. -/
def Obligations.NoStopUnderTheInvariant : Prop :=
  ∀ s : State, Inv s → ∃ t, step s = .next t

/-- 30_encoding.md R81: `LAST_ACT` is written by every byte consumed, by nothing else but reset. -/
def Obligations.TimestampFollowsConsumedBytes : Prop :=
  ∀ s t : State, step s = .next t →
    t.lastAct = match inputOf (pinsNow s) with
      | .reset t0 => t0 % 2 ^ s.cfg.timeW
      | .byte _ => if s.mode = .halted then s.lastAct else (pinsNow s).now % 2 ^ s.cfg.timeW
      | .transportError => s.lastAct
      | .quiet => s.lastAct

/-- 10_state.md R25, R26, R27, 41_data_bytes.md R140: without a reset, a step that changes PORT, ANA or the version fields is the second
data byte of a digital, an analog or a version message, and it changes no entry but that of the message's channel. -/
def Obligations.RegisterFilesChangeOnlyByTheirMessage : Prop :=
  ∀ s t : State, (pinsNow s).rst = false → step s = .next t →
    (∀ ch, portOf t ch ≠ portOf s ch → ch = s.pCh ∧ s.mode = .await ∧ s.rem ≠ 2#2 ∧ s.pOp = s.cfg.opDigital ∧
      s.pCh.toNat < s.cfg.numPorts ∧ ∃ b, inputOf (pinsNow s) = .byte b ∧ b < 0x80#8) ∧
    (∀ ch, anaOf t ch ≠ anaOf s ch → ch = s.pCh ∧ s.mode = .await ∧ s.rem ≠ 2#2 ∧ s.pOp = s.cfg.opAnalog ∧
      s.pCh.toNat < s.cfg.numAnalog ∧ ∃ b, inputOf (pinsNow s) = .byte b ∧ b < 0x80#8) ∧
    (t.verMajor ≠ s.verMajor ∨ t.verMinor ≠ s.verMinor → s.mode = .await ∧ s.rem ≠ 2#2 ∧ s.pOp = s.cfg.opVersion ∧
      ∃ b, inputOf (pinsNow s) = .byte b ∧ b < 0x80#8)

/-- 10_state.md R31: without a reset, only the END_SYSEX of an accepted reply changes the latch. -/
def Obligations.LatchChangesOnlyByAnAcceptedReply : Prop :=
  ∀ s t : State, (pinsNow s).rst = false → step s = .next t →
    ¬ (t.i2cAddr = s.i2cAddr ∧ t.i2cReg = s.i2cReg ∧ t.i2cLen = s.i2cLen ∧ t.i2cPl = s.i2cPl) →
    s.mode = .sysex ∧ inputOf (pinsNow s) = .byte 0xF7#8 ∧ s.cfg.replyMin < s.cnt.toNat ∧ accByte s 0 = 0x77#8

/-- 10_state.md R29, 60_exceptions.md R200, R205: without a reset, a step that changes FAULT or FAULT_CH is a halt entry from a state that
is not halted, by a transport error or by the second data byte of a message out of range. -/
def Obligations.FaultRegistersChangeOnlyAtAHalt : Prop :=
  ∀ s t : State, (pinsNow s).rst = false → step s = .next t → t.fault ≠ s.fault ∨ t.faultCh ≠ s.faultCh →
    s.mode ≠ .halted ∧ t.mode = .halted ∧
    (inputOf (pinsNow s) = .transportError ∧ t.fault = .transport ∧ t.faultCh = 0#4 ∨
      s.mode = .await ∧ s.rem ≠ 2#2 ∧ s.pOp = s.cfg.opDigital ∧ s.cfg.numPorts ≤ s.pCh.toNat ∧ t.fault = .digRange ∧
        t.faultCh = s.pCh ∧ (∃ b, inputOf (pinsNow s) = .byte b ∧ b < 0x80#8) ∨
      s.mode = .await ∧ s.rem ≠ 2#2 ∧ s.pOp = s.cfg.opAnalog ∧ s.cfg.numAnalog ≤ s.pCh.toNat ∧ t.fault = .anaRange ∧
        t.faultCh = s.pCh ∧ ∃ b, inputOf (pinsNow s) = .byte b ∧ b < 0x80#8)

/-- 60_exceptions.md section 2: in HALTED every edge but a reset answers a next state with every register unchanged, and a reset leaves
HALTED. That a byte offered there, for which the spec has no step, answers a next state is the model's choice (log entry 16), by what
10_state.md R37 says of an edge that consumes nothing. -/
def Obligations.HaltedIsLeftOnlyByReset : Prop :=
  ∀ s : State, s.mode = .halted →
    ((pinsNow s).rst = false →
      step s = .next { s with evt := .none, events := [], inputs := s.inputs.tail, draw := s.draw + 1 }) ∧
    ((pinsNow s).rst = true → ∃ t, step s = .next t ∧ t.mode = .idle ∧ t.fault = .none)

/-- 30_encoding.md R82: a step emits events of at most one class, and only the steps the rule names emit any: the second data byte of a
digital message (at most 8 events, of pins of its port), that of an analog message (one, of its channel), and the END_SYSEX of an accepted
reply (one). -/
def Obligations.OneEventClassPerStep : Prop :=
  ∀ s t : State, step s = .next t → t.events = [] ∨
    ∃ b, inputOf (pinsNow s) = .byte b ∧
      (s.mode = .await ∧ s.rem ≠ 2#2 ∧ b < 0x80#8 ∧ s.pOp = s.cfg.opDigital ∧ t.events.length ≤ 8 ∧
          (∀ e ∈ t.events, ∃ i < 8, ∃ level, e = .digitalChanged (8 * s.pCh.toNat + i) level) ∨
        s.mode = .await ∧ s.rem ≠ 2#2 ∧ b < 0x80#8 ∧ s.pOp = s.cfg.opAnalog ∧ (∃ v, t.events = [.analogChanged s.pCh v]) ∨
        s.mode = .sysex ∧ b = 0xF7#8 ∧ s.cfg.replyMin < s.cnt.toNat ∧ accByte s 0 = 0x77#8 ∧
          ∃ a r p, t.events = [.i2cReceived a r p])

/-- 10_state.md R39: after every step the event outputs present the step's event list, at most one class is valid, and `dig_evt_valid` is
high only with a mask that is not 0. -/
def Obligations.EventOutputsPresentTheEventList : Prop :=
  ∀ s t : State, step s = .next t →
    t.events =
      (if (outputs t).digEvtValid then (List.range 8).filterMap (fun i =>
          if (outputs t).digEvtMask.getLsbD i then
            some (.digitalChanged (8 * (outputs t).digEvtPort.toNat + i) ((outputs t).digEvtBits.getLsbD i)) else none) else []) ++
      (if (outputs t).anaEvtValid then [.analogChanged (outputs t).anaEvtCh ((outputs t).anaEvtValue.setWidth 16)] else []) ++
      (if (outputs t).i2cEvtValid then [.i2cReceived (outputs t).i2cAddr (outputs t).i2cReg (latchedPayload t)] else []) ∧
    ((outputs t).digEvtValid = true → (outputs t).digEvtMask ≠ 0#8 ∧ (outputs t).anaEvtValid = false ∧
      (outputs t).i2cEvtValid = false) ∧
    ((outputs t).anaEvtValid = true → (outputs t).i2cEvtValid = false)

/-- 60_exceptions.md R212: no step changes the configuration. -/
def Obligations.NoStepChangesTheConfiguration : Prop :=
  ∀ s t : State, step s = .next t → t.cfg = s.cfg

/-- 10_state.md R22: outside AWAIT no step reads P_OP, P_CH, REM or D0: changing them changes nothing a step gives but their own stale
values, and where the step enters AWAIT it sets P_OP, P_CH and REM afresh. -/
def Obligations.PendingFieldsAreUnreadOutsideAwait : Prop :=
  ∀ (s t : State) (op : Byte) (ch : Channel) (r : BitVec 2) (d : Data7), s.mode ≠ .await → step s = .next t →
    ∃ op' ch' r' d', step { s with pOp := op, pCh := ch, rem := r, d0 := d } =
        .next { t with pOp := op', pCh := ch', rem := r', d0 := d' } ∧
      (t.mode = .await → op' = t.pOp ∧ ch' = t.pCh ∧ r' = t.rem)

/-- 10_state.md R28: "Nothing in the block reads it": a step with another LAST_ACT gives the same state but for LAST_ACT. -/
def Obligations.TimestampIsNeverRead : Prop :=
  ∀ (s t : State) (x : Nat), step s = .next t →
    ∃ y, (y = t.lastAct ∨ y = x) ∧ step { s with lastAct := x } = .next { t with lastAct := y }

/-- 10_state.md R36, R38, 20_memory.md R59: the read ports show the registers, the payload port the entry below I2C_LEN, and `rx_ready`
is high exactly when the block is not halted and `rst = 0`. -/
def Obligations.OutputPortsShowTheRegisters : Prop :=
  ∀ s : State,
    ((outputs s).rxReady = true ↔ s.mode ≠ .halted ∧ (pinsNow s).rst = false) ∧
    (outputs s).portData = portOf s (pinsNow s).portIdx ∧ (outputs s).anaData = anaOf s (pinsNow s).anaIdx ∧
    (outputs s).verMajor = s.verMajor ∧ (outputs s).verMinor = s.verMinor ∧ (outputs s).i2cAddr = s.i2cAddr ∧
    (outputs s).i2cReg = s.i2cReg ∧ (outputs s).i2cLen = s.i2cLen ∧ (outputs s).lastAct = s.lastAct ∧
    (outputs s).faultCh = s.faultCh ∧
    ((pinsNow s).plIdx.toNat < s.i2cLen.toNat → (outputs s).i2cPl = s.i2cPl.read (pinsNow s).plIdx.toNat) ∧
    ((outputs s).state = 0#2 ↔ s.mode = .idle) ∧ ((outputs s).state = 1#2 ↔ s.mode = .await) ∧
    ((outputs s).state = 2#2 ↔ s.mode = .sysex) ∧ ((outputs s).state = 3#2 ↔ s.mode = .halted) ∧
    ((outputs s).fault = 0#2 ↔ s.fault = .none) ∧ ((outputs s).fault = 1#2 ↔ s.fault = .transport) ∧
    ((outputs s).fault = 2#2 ↔ s.fault = .digRange) ∧ ((outputs s).fault = 3#2 ↔ s.fault = .anaRange)

/-- 10_state.md R38: a read at an index at or above NUM_PORTS or NUM_ANALOG gives 0 in every state that meets the invariant. -/
def Obligations.ReadPortsBeyondTheBoardGiveZero : Prop :=
  ∀ s : State, Inv s →
    (s.cfg.numPorts ≤ (pinsNow s).portIdx.toNat → (outputs s).portData = 0#16) ∧
    (s.cfg.numAnalog ≤ (pinsNow s).anaIdx.toNat → (outputs s).anaData = 0#16)

/-! ### Streams of bytes -/

/-- 41_data_bytes.md R141: from IDLE or AWAIT, the stream `[OP_DIGITAL | p, L, H]` sets `PORT[p] = L | (H << 7)`, emits exactly the changed
bits of 7:0 with their pin numbers, in ascending order, and leaves every other register file entry. -/
def Obligations.DigitalFrameSetsThePort : Prop :=
  ∀ (s : State) (p : Channel) (low high : Byte) (t1 t2 t3 : Nat), Inv s → (s.mode = .idle ∨ s.mode = .await) →
    p.toNat < s.cfg.numPorts → low < 0x80#8 → high < 0x80#8 →
    ∃ (u : State) (v : Half), v.toNat = low.toNat + 128 * high.toNat ∧
      runStream [(s.cfg.opDigital ||| p.setWidth 8, t1), (low, t2), (high, t3)] s =
        some (u, (List.range 8).filterMap (fun i =>
          if (portOf s p).getLsbD i = v.getLsbD i then none else some (.digitalChanged (8 * p.toNat + i) (v.getLsbD i)))) ∧
      u.mode = .idle ∧ portOf u p = v ∧ (∀ ch, ch ≠ p → portOf u ch = portOf s ch) ∧ u.ana = s.ana ∧
      u.verMajor = s.verMajor ∧ u.verMinor = s.verMinor ∧ u.lastAct = t3 % 2 ^ s.cfg.timeW

/-- 41_data_bytes.md R142: from IDLE or AWAIT, the stream `[OP_ANALOG | c, L, H]` sets `ANA[c] = L | (H << 7)` and emits exactly one
AnalogChanged, whatever the register held. -/
def Obligations.AnalogFrameSetsTheChannel : Prop :=
  ∀ (s : State) (c : Channel) (low high : Byte) (t1 t2 t3 : Nat), Inv s → (s.mode = .idle ∨ s.mode = .await) →
    c.toNat < s.cfg.numAnalog → low < 0x80#8 → high < 0x80#8 →
    ∃ (u : State) (v : Half), v.toNat = low.toNat + 128 * high.toNat ∧
      runStream [(s.cfg.opAnalog ||| c.setWidth 8, t1), (low, t2), (high, t3)] s = some (u, [.analogChanged c v]) ∧
      u.mode = .idle ∧ anaOf u c = v ∧ (∀ ch, ch ≠ c → anaOf u ch = anaOf s ch) ∧ u.port = s.port ∧
      u.verMajor = s.verMajor ∧ u.verMinor = s.verMinor ∧ u.lastAct = t3 % 2 ^ s.cfg.timeW

/-- 30_encoding.md R72, R84, 41_data_bytes.md R139: from IDLE or AWAIT, in either form of OP_VERSION, the frame `VER(M, m)` sets both
version fields and emits nothing. -/
def Obligations.VersionFrameSetsBothFields : Prop :=
  ∀ (s : State) (major minor : Data7) (t1 t2 t3 : Nat), Inv s → (s.mode = .idle ∨ s.mode = .await) →
    ∃ u : State, runStream ((verFrame s.cfg major minor).zip [t1, t2, t3]) s = some (u, []) ∧
      u.mode = .idle ∧ u.verMajor = major ∧ u.verMinor = minor ∧ u.port = s.port ∧ u.ana = s.ana ∧
      u.lastAct = t3 % 2 ^ s.cfg.timeW

/-- 40_sysex.md R109, 30_encoding.md R74: the frame `I2CREPLY(a, r, v1, ..., vp)` that fits the accumulator and exceeds the threshold,
consumed from IDLE, emits exactly one I2CReceived with the address, the register and the low bytes of the values; the latch holds them,
and the register files are as before. -/
def Obligations.ReplyFrameRoundTrip : Prop :=
  ∀ (s : State) (a r : BitVec 14) (vs : List (BitVec 14)) (bs : List (Byte × Nat)), Inv s → s.mode = .idle →
    2 * vs.length + 5 ≤ s.cfg.sysexCap → s.cfg.replyMin < 2 * vs.length + 5 → bs.map Prod.fst = replyFrame a r vs →
    ∃ u : State, runStream bs s = some (u, [.i2cReceived (a.setWidth 16) (r.setWidth 16) (vs.map (fun v => v.setWidth 8))]) ∧
      u.mode = .idle ∧ u.cnt = 0#8 ∧ u.i2cAddr = a.setWidth 16 ∧ u.i2cReg = r.setWidth 16 ∧
      latchedPayload u = vs.map (fun v => v.setWidth 8) ∧ u.port = s.port ∧ u.ana = s.ana ∧ u.verMajor = s.verMajor ∧
      u.verMinor = s.verMinor ∧ u.fault = s.fault

/-- 40_sysex.md R110, R101, 60_exceptions.md R201: a sysex whose body of bytes below 0x80 exceeds the capacity is discarded: no event, no
fault, and after its END_SYSEX the block is in IDLE with an empty accumulator and every register file, the version and the latch as
before. -/
def Obligations.OverlongSysexLeavesNoTrace : Prop :=
  ∀ (s : State) (body : List Byte) (bs : List (Byte × Nat)), Inv s → s.mode = .idle → (∀ b ∈ body, b < 0x80#8) →
    s.cfg.sysexCap < body.length → bs.map Prod.fst = sysexFrame body →
    ∃ u : State, runStream bs s = some (u, []) ∧ u.mode = .idle ∧ u.cnt = 0#8 ∧ u.port = s.port ∧ u.ana = s.ana ∧
      u.verMajor = s.verMajor ∧ u.verMinor = s.verMinor ∧ u.fault = .none ∧ u.i2cAddr = s.i2cAddr ∧ u.i2cReg = s.i2cReg ∧
      u.i2cLen = s.i2cLen ∧ u.i2cPl = s.i2cPl

/-- 30_encoding.md R73, 40_sysex.md R106: a sysex that fits the accumulator and whose body does not begin with 0x77, or is at most
REPLY_MIN bytes long, is discarded with no output, whatever body bytes but 0xF7 it holds. -/
def Obligations.OtherSysexIsDiscarded : Prop :=
  ∀ (s : State) (body : List Byte) (bs : List (Byte × Nat)), Inv s → s.mode = .idle → (∀ b ∈ body, b ≠ 0xF7#8) →
    body.length ≤ s.cfg.sysexCap → (body.head? ≠ some 0x77#8 ∨ body.length ≤ s.cfg.replyMin) →
    bs.map Prod.fst = sysexFrame body →
    ∃ u : State, runStream bs s = some (u, []) ∧ u.mode = .idle ∧ u.cnt = 0#8 ∧ u.port = s.port ∧ u.ana = s.ana ∧
      u.verMajor = s.verMajor ∧ u.verMinor = s.verMinor ∧ u.fault = .none ∧ u.i2cAddr = s.i2cAddr ∧ u.i2cReg = s.i2cReg ∧
      u.i2cLen = s.i2cLen ∧ u.i2cPl = s.i2cPl
end

