-- ==== Sys2Proof/Laws/Memory.lean ====
section
/-! SUPPORT. The byte arrays: a read after a write, the canonical form kept by every operation, and which indexes an array lists. -/

namespace Sys2Proof.Machine

@[simp] theorem Memory.read_nil (a : Nat) : Memory.read [] a = Memory.blank := rfl

theorem Memory.wf_nil : Memory.wf [] := ⟨List.Pairwise.nil, by simp⟩

/-- The first entry of an array in canonical form lies below the others, which are in canonical form. -/
theorem Memory.wf_cons {b : Nat} {w : Byte} {m : Memory} :
    Memory.wf ((b, w) :: m) ↔ (∀ c ∈ m, b < c.1) ∧ w ≠ Memory.blank ∧ Memory.wf m := by
  simp only [Memory.wf, List.pairwise_cons, List.forall_mem_cons]
  tauto

/-- An index that no entry has reads as blank. -/
theorem Memory.read_absent {m : Memory} {a : Nat} (h : ∀ c ∈ m, c.1 ≠ a) : m.read a = Memory.blank := by
  induction m with
  | nil => rfl
  | cons c m ih =>
    obtain ⟨b, w⟩ := c
    have hb : a ≠ b := fun e => h _ List.mem_cons_self e.symm
    simp only [Memory.read, if_neg hb]
    exact ih fun c hc => h c (List.mem_cons_of_mem _ hc)

/-- Every entry a write leaves is an old one or the new one. -/
theorem Memory.mem_write {m : Memory} {a : Nat} {v : Byte} {c : Host.Cell} (h : c ∈ m.write a v) :
    c ∈ m ∨ (c = (a, v) ∧ v ≠ Memory.blank) := by
  induction m with
  | nil =>
    simp only [Memory.write] at h
    split at h <;> simp_all
  | cons d m ih =>
    obtain ⟨b, w⟩ := d
    simp only [Memory.write] at h
    split_ifs at h with h1 h2 h3 h4
    · exact .inl h
    · simp only [List.mem_cons] at h ⊢
      tauto
    · exact .inl (List.mem_cons_of_mem _ h)
    · subst h3
      simp only [List.mem_cons] at h ⊢
      tauto
    · simp only [List.mem_cons] at h ⊢
      rcases h with rfl | h
      · tauto
      · rcases ih h with h | h <;> tauto

/-- A write keeps the canonical form. -/
theorem Memory.write_wf {m : Memory} (a : Nat) (v : Byte) (h : m.wf) : (m.write a v).wf := by
  induction m with
  | nil =>
    simp only [Memory.write]
    split
    · exact h
    · exact Memory.wf_cons.2 ⟨by simp, ‹_›, h⟩
  | cons d m ih =>
    obtain ⟨b, w⟩ := d
    obtain ⟨hlt, hw, hm⟩ := Memory.wf_cons.1 h
    simp only [Memory.write]
    split_ifs with h1 h2 h3 h4
    · exact h
    · refine Memory.wf_cons.2 ⟨?_, h2, h⟩
      intro c hc
      rcases List.mem_cons.1 hc with rfl | hc
      · exact h1
      · exact h1.trans (hlt c hc)
    · exact hm
    · exact Memory.wf_cons.2 ⟨hlt, h4, hm⟩
    · refine Memory.wf_cons.2 ⟨?_, hw, ih hm⟩
      intro c hc
      rcases Memory.mem_write hc with hc | ⟨rfl, -⟩
      · exact hlt c hc
      · show b < a
        omega

/-- A read after a write to the same index gives the value written. -/
theorem Memory.read_write_same {m : Memory} (a : Nat) (v : Byte) (h : m.wf) : (m.write a v).read a = v := by
  induction m with
  | nil =>
    simp only [Memory.write]
    split <;> simp_all [Memory.read]
  | cons d m ih =>
    obtain ⟨b, w⟩ := d
    obtain ⟨hlt, hw, hm⟩ := Memory.wf_cons.1 h
    simp only [Memory.write]
    split_ifs with h1 h2 h3 h4
    · subst h2
      refine Memory.read_absent fun c hc => ?_
      rcases List.mem_cons.1 hc with rfl | hc
      · exact Nat.ne_of_gt h1
      · exact Nat.ne_of_gt (h1.trans (hlt c hc))
    · simp [Memory.read]
    · subst h3 h4
      exact Memory.read_absent fun c hc => Nat.ne_of_gt (hlt c hc)
    · simp [Memory.read, h3]
    · simp only [Memory.read, if_neg h3]
      exact ih hm

/-- A write leaves every other index alone. -/
theorem Memory.read_write_other {m : Memory} {a b : Nat} (v : Byte) (h : m.wf) (hab : b ≠ a) :
    (m.write a v).read b = m.read b := by
  induction m with
  | nil =>
    simp only [Memory.write]
    split <;> simp [Memory.read, hab]
  | cons d m ih =>
    obtain ⟨k, w⟩ := d
    obtain ⟨hlt, hw, hm⟩ := Memory.wf_cons.1 h
    simp only [Memory.write]
    split_ifs with h1 h2 h3 h4
    · rfl
    · simp [Memory.read, hab]
    · subst h3
      simp only [Memory.read, if_neg hab]
    · subst h3
      simp only [Memory.read, if_neg hab]
    · simp only [Memory.read]
      split
      · rfl
      · exact ih hm

/-- A list of bytes is held in canonical form. -/
theorem Memory.ofBytes_wf (bs : List Byte) (k : Nat) : (Memory.ofBytes k bs).wf := by
  induction bs generalizing k with
  | nil => exact Memory.wf_nil
  | cons b bs ih => exact Memory.write_wf k b (ih (k + 1))

/-- The array of a list lists indexes of the list only. -/
theorem Memory.mem_ofBytes {bs : List Byte} {k : Nat} {c : Host.Cell} (h : c ∈ Memory.ofBytes k bs) :
    k ≤ c.1 ∧ c.1 < k + bs.length := by
  induction bs generalizing k with
  | nil => simp [Memory.ofBytes] at h
  | cons b bs ih =>
    rcases Memory.mem_write h with h | ⟨rfl, -⟩
    · have := ih h
      simp only [List.length_cons]
      omega
    · simp

/-- The array of a list holds the list. -/
theorem Memory.read_ofBytes (bs : List Byte) (k j : Nat) (h : j < bs.length) :
    (Memory.ofBytes k bs).read (k + j) = bs[j] := by
  induction bs generalizing k j with
  | nil => simp at h
  | cons b bs ih =>
    cases j with
    | zero => exact Memory.read_write_same _ _ (Memory.ofBytes_wf bs (k + 1))
    | succ j =>
      have hj : j < bs.length := by simpa using h
      rw [Memory.ofBytes, Memory.read_write_other b (Memory.ofBytes_wf bs (k + 1)) (by omega)]
      simpa [Nat.add_assoc, Nat.add_comm 1 j] using ih (k + 1) j hj

end Sys2Proof.Machine
end

