-- ==== Sys2Proof/Laws/State.lean ====
section
/-! SUPPORT. What each named update does to each field of the state: one lemma per field and update, so that no later proof unfolds a
record update. -/

namespace Sys2Proof.Machine

/-! ### nextEdge -/

@[simp] theorem nextEdge_cfg (s : State) : (nextEdge s).cfg = s.cfg := rfl
@[simp] theorem nextEdge_mode (s : State) : (nextEdge s).mode = s.mode := rfl
@[simp] theorem nextEdge_pOp (s : State) : (nextEdge s).pOp = s.pOp := rfl
@[simp] theorem nextEdge_pCh (s : State) : (nextEdge s).pCh = s.pCh := rfl
@[simp] theorem nextEdge_rem (s : State) : (nextEdge s).rem = s.rem := rfl
@[simp] theorem nextEdge_d0 (s : State) : (nextEdge s).d0 = s.d0 := rfl
@[simp] theorem nextEdge_acc (s : State) : (nextEdge s).acc = s.acc := rfl
@[simp] theorem nextEdge_cnt (s : State) : (nextEdge s).cnt = s.cnt := rfl
@[simp] theorem nextEdge_port (s : State) : (nextEdge s).port = s.port := rfl
@[simp] theorem nextEdge_ana (s : State) : (nextEdge s).ana = s.ana := rfl
@[simp] theorem nextEdge_verMajor (s : State) : (nextEdge s).verMajor = s.verMajor := rfl
@[simp] theorem nextEdge_verMinor (s : State) : (nextEdge s).verMinor = s.verMinor := rfl
@[simp] theorem nextEdge_lastAct (s : State) : (nextEdge s).lastAct = s.lastAct := rfl
@[simp] theorem nextEdge_fault (s : State) : (nextEdge s).fault = s.fault := rfl
@[simp] theorem nextEdge_faultCh (s : State) : (nextEdge s).faultCh = s.faultCh := rfl
@[simp] theorem nextEdge_i2cAddr (s : State) : (nextEdge s).i2cAddr = s.i2cAddr := rfl
@[simp] theorem nextEdge_i2cReg (s : State) : (nextEdge s).i2cReg = s.i2cReg := rfl
@[simp] theorem nextEdge_i2cLen (s : State) : (nextEdge s).i2cLen = s.i2cLen := rfl
@[simp] theorem nextEdge_i2cPl (s : State) : (nextEdge s).i2cPl = s.i2cPl := rfl
@[simp] theorem nextEdge_evt (s : State) : (nextEdge s).evt = s.evt := rfl
@[simp] theorem nextEdge_events (s : State) : (nextEdge s).events = s.events := rfl
@[simp] theorem nextEdge_inputs (s : State) : (nextEdge s).inputs = s.inputs.tail := rfl
@[simp] theorem nextEdge_draw (s : State) : (nextEdge s).draw = s.draw + 1 := rfl

/-! ### offerStream -/

@[simp] theorem offerStream_cfg (bs : List (Byte × Nat)) (s : State) : (offerStream bs s).cfg = s.cfg := rfl
@[simp] theorem offerStream_mode (bs : List (Byte × Nat)) (s : State) : (offerStream bs s).mode = s.mode := rfl
@[simp] theorem offerStream_pOp (bs : List (Byte × Nat)) (s : State) : (offerStream bs s).pOp = s.pOp := rfl
@[simp] theorem offerStream_pCh (bs : List (Byte × Nat)) (s : State) : (offerStream bs s).pCh = s.pCh := rfl
@[simp] theorem offerStream_rem (bs : List (Byte × Nat)) (s : State) : (offerStream bs s).rem = s.rem := rfl
@[simp] theorem offerStream_d0 (bs : List (Byte × Nat)) (s : State) : (offerStream bs s).d0 = s.d0 := rfl
@[simp] theorem offerStream_acc (bs : List (Byte × Nat)) (s : State) : (offerStream bs s).acc = s.acc := rfl
@[simp] theorem offerStream_cnt (bs : List (Byte × Nat)) (s : State) : (offerStream bs s).cnt = s.cnt := rfl
@[simp] theorem offerStream_port (bs : List (Byte × Nat)) (s : State) : (offerStream bs s).port = s.port := rfl
@[simp] theorem offerStream_ana (bs : List (Byte × Nat)) (s : State) : (offerStream bs s).ana = s.ana := rfl
@[simp] theorem offerStream_verMajor (bs : List (Byte × Nat)) (s : State) : (offerStream bs s).verMajor = s.verMajor := rfl
@[simp] theorem offerStream_verMinor (bs : List (Byte × Nat)) (s : State) : (offerStream bs s).verMinor = s.verMinor := rfl
@[simp] theorem offerStream_lastAct (bs : List (Byte × Nat)) (s : State) : (offerStream bs s).lastAct = s.lastAct := rfl
@[simp] theorem offerStream_fault (bs : List (Byte × Nat)) (s : State) : (offerStream bs s).fault = s.fault := rfl
@[simp] theorem offerStream_faultCh (bs : List (Byte × Nat)) (s : State) : (offerStream bs s).faultCh = s.faultCh := rfl
@[simp] theorem offerStream_i2cAddr (bs : List (Byte × Nat)) (s : State) : (offerStream bs s).i2cAddr = s.i2cAddr := rfl
@[simp] theorem offerStream_i2cReg (bs : List (Byte × Nat)) (s : State) : (offerStream bs s).i2cReg = s.i2cReg := rfl
@[simp] theorem offerStream_i2cLen (bs : List (Byte × Nat)) (s : State) : (offerStream bs s).i2cLen = s.i2cLen := rfl
@[simp] theorem offerStream_i2cPl (bs : List (Byte × Nat)) (s : State) : (offerStream bs s).i2cPl = s.i2cPl := rfl
@[simp] theorem offerStream_evt (bs : List (Byte × Nat)) (s : State) : (offerStream bs s).evt = s.evt := rfl
@[simp] theorem offerStream_events (bs : List (Byte × Nat)) (s : State) : (offerStream bs s).events = s.events := rfl
@[simp] theorem offerStream_inputs (bs : List (Byte × Nat)) (s : State) : (offerStream bs s).inputs = bs.map (fun p => bytePins p.1 p.2) ++ s.inputs := rfl
@[simp] theorem offerStream_draw (bs : List (Byte × Nat)) (s : State) : (offerStream bs s).draw = s.draw := rfl

/-! ### clearEvents -/

@[simp] theorem clearEvents_cfg (s : State) : (clearEvents s).cfg = s.cfg := rfl
@[simp] theorem clearEvents_mode (s : State) : (clearEvents s).mode = s.mode := rfl
@[simp] theorem clearEvents_pOp (s : State) : (clearEvents s).pOp = s.pOp := rfl
@[simp] theorem clearEvents_pCh (s : State) : (clearEvents s).pCh = s.pCh := rfl
@[simp] theorem clearEvents_rem (s : State) : (clearEvents s).rem = s.rem := rfl
@[simp] theorem clearEvents_d0 (s : State) : (clearEvents s).d0 = s.d0 := rfl
@[simp] theorem clearEvents_acc (s : State) : (clearEvents s).acc = s.acc := rfl
@[simp] theorem clearEvents_cnt (s : State) : (clearEvents s).cnt = s.cnt := rfl
@[simp] theorem clearEvents_port (s : State) : (clearEvents s).port = s.port := rfl
@[simp] theorem clearEvents_ana (s : State) : (clearEvents s).ana = s.ana := rfl
@[simp] theorem clearEvents_verMajor (s : State) : (clearEvents s).verMajor = s.verMajor := rfl
@[simp] theorem clearEvents_verMinor (s : State) : (clearEvents s).verMinor = s.verMinor := rfl
@[simp] theorem clearEvents_lastAct (s : State) : (clearEvents s).lastAct = s.lastAct := rfl
@[simp] theorem clearEvents_fault (s : State) : (clearEvents s).fault = s.fault := rfl
@[simp] theorem clearEvents_faultCh (s : State) : (clearEvents s).faultCh = s.faultCh := rfl
@[simp] theorem clearEvents_i2cAddr (s : State) : (clearEvents s).i2cAddr = s.i2cAddr := rfl
@[simp] theorem clearEvents_i2cReg (s : State) : (clearEvents s).i2cReg = s.i2cReg := rfl
@[simp] theorem clearEvents_i2cLen (s : State) : (clearEvents s).i2cLen = s.i2cLen := rfl
@[simp] theorem clearEvents_i2cPl (s : State) : (clearEvents s).i2cPl = s.i2cPl := rfl
@[simp] theorem clearEvents_evt (s : State) : (clearEvents s).evt = .none := rfl
@[simp] theorem clearEvents_events (s : State) : (clearEvents s).events = [] := rfl
@[simp] theorem clearEvents_inputs (s : State) : (clearEvents s).inputs = s.inputs := rfl
@[simp] theorem clearEvents_draw (s : State) : (clearEvents s).draw = s.draw := rfl

/-! ### consumeByte -/

@[simp] theorem consumeByte_cfg (s : State) : (consumeByte s).cfg = s.cfg := rfl
@[simp] theorem consumeByte_mode (s : State) : (consumeByte s).mode = s.mode := rfl
@[simp] theorem consumeByte_pOp (s : State) : (consumeByte s).pOp = s.pOp := rfl
@[simp] theorem consumeByte_pCh (s : State) : (consumeByte s).pCh = s.pCh := rfl
@[simp] theorem consumeByte_rem (s : State) : (consumeByte s).rem = s.rem := rfl
@[simp] theorem consumeByte_d0 (s : State) : (consumeByte s).d0 = s.d0 := rfl
@[simp] theorem consumeByte_acc (s : State) : (consumeByte s).acc = s.acc := rfl
@[simp] theorem consumeByte_cnt (s : State) : (consumeByte s).cnt = s.cnt := rfl
@[simp] theorem consumeByte_port (s : State) : (consumeByte s).port = s.port := rfl
@[simp] theorem consumeByte_ana (s : State) : (consumeByte s).ana = s.ana := rfl
@[simp] theorem consumeByte_verMajor (s : State) : (consumeByte s).verMajor = s.verMajor := rfl
@[simp] theorem consumeByte_verMinor (s : State) : (consumeByte s).verMinor = s.verMinor := rfl
@[simp] theorem consumeByte_lastAct (s : State) : (consumeByte s).lastAct = timeNow s := rfl
@[simp] theorem consumeByte_fault (s : State) : (consumeByte s).fault = s.fault := rfl
@[simp] theorem consumeByte_faultCh (s : State) : (consumeByte s).faultCh = s.faultCh := rfl
@[simp] theorem consumeByte_i2cAddr (s : State) : (consumeByte s).i2cAddr = s.i2cAddr := rfl
@[simp] theorem consumeByte_i2cReg (s : State) : (consumeByte s).i2cReg = s.i2cReg := rfl
@[simp] theorem consumeByte_i2cLen (s : State) : (consumeByte s).i2cLen = s.i2cLen := rfl
@[simp] theorem consumeByte_i2cPl (s : State) : (consumeByte s).i2cPl = s.i2cPl := rfl
@[simp] theorem consumeByte_evt (s : State) : (consumeByte s).evt = .none := rfl
@[simp] theorem consumeByte_events (s : State) : (consumeByte s).events = [] := rfl
@[simp] theorem consumeByte_inputs (s : State) : (consumeByte s).inputs = s.inputs := rfl
@[simp] theorem consumeByte_draw (s : State) : (consumeByte s).draw = s.draw := rfl

/-! ### raiseFault -/

@[simp] theorem raiseFault_cfg (c : Cause) (ch : Channel) (s : State) : (raiseFault c ch s).cfg = s.cfg := rfl
@[simp] theorem raiseFault_mode (c : Cause) (ch : Channel) (s : State) : (raiseFault c ch s).mode = .halted := rfl
@[simp] theorem raiseFault_pOp (c : Cause) (ch : Channel) (s : State) : (raiseFault c ch s).pOp = s.pOp := rfl
@[simp] theorem raiseFault_pCh (c : Cause) (ch : Channel) (s : State) : (raiseFault c ch s).pCh = s.pCh := rfl
@[simp] theorem raiseFault_rem (c : Cause) (ch : Channel) (s : State) : (raiseFault c ch s).rem = s.rem := rfl
@[simp] theorem raiseFault_d0 (c : Cause) (ch : Channel) (s : State) : (raiseFault c ch s).d0 = s.d0 := rfl
@[simp] theorem raiseFault_acc (c : Cause) (ch : Channel) (s : State) : (raiseFault c ch s).acc = s.acc := rfl
@[simp] theorem raiseFault_cnt (c : Cause) (ch : Channel) (s : State) : (raiseFault c ch s).cnt = s.cnt := rfl
@[simp] theorem raiseFault_port (c : Cause) (ch : Channel) (s : State) : (raiseFault c ch s).port = s.port := rfl
@[simp] theorem raiseFault_ana (c : Cause) (ch : Channel) (s : State) : (raiseFault c ch s).ana = s.ana := rfl
@[simp] theorem raiseFault_verMajor (c : Cause) (ch : Channel) (s : State) : (raiseFault c ch s).verMajor = s.verMajor := rfl
@[simp] theorem raiseFault_verMinor (c : Cause) (ch : Channel) (s : State) : (raiseFault c ch s).verMinor = s.verMinor := rfl
@[simp] theorem raiseFault_lastAct (c : Cause) (ch : Channel) (s : State) : (raiseFault c ch s).lastAct = s.lastAct := rfl
@[simp] theorem raiseFault_fault (c : Cause) (ch : Channel) (s : State) : (raiseFault c ch s).fault = c := rfl
@[simp] theorem raiseFault_faultCh (c : Cause) (ch : Channel) (s : State) : (raiseFault c ch s).faultCh = ch := rfl
@[simp] theorem raiseFault_i2cAddr (c : Cause) (ch : Channel) (s : State) : (raiseFault c ch s).i2cAddr = s.i2cAddr := rfl
@[simp] theorem raiseFault_i2cReg (c : Cause) (ch : Channel) (s : State) : (raiseFault c ch s).i2cReg = s.i2cReg := rfl
@[simp] theorem raiseFault_i2cLen (c : Cause) (ch : Channel) (s : State) : (raiseFault c ch s).i2cLen = s.i2cLen := rfl
@[simp] theorem raiseFault_i2cPl (c : Cause) (ch : Channel) (s : State) : (raiseFault c ch s).i2cPl = s.i2cPl := rfl
@[simp] theorem raiseFault_evt (c : Cause) (ch : Channel) (s : State) : (raiseFault c ch s).evt = s.evt := rfl
@[simp] theorem raiseFault_events (c : Cause) (ch : Channel) (s : State) : (raiseFault c ch s).events = s.events := rfl
@[simp] theorem raiseFault_inputs (c : Cause) (ch : Channel) (s : State) : (raiseFault c ch s).inputs = s.inputs := rfl
@[simp] theorem raiseFault_draw (c : Cause) (ch : Channel) (s : State) : (raiseFault c ch s).draw = s.draw := rfl

/-! ### startCommand -/

@[simp] theorem startCommand_cfg (op : Byte) (ch : Channel) (s : State) : (startCommand op ch s).cfg = s.cfg := rfl
@[simp] theorem startCommand_mode (op : Byte) (ch : Channel) (s : State) : (startCommand op ch s).mode = .await := rfl
@[simp] theorem startCommand_pOp (op : Byte) (ch : Channel) (s : State) : (startCommand op ch s).pOp = op := rfl
@[simp] theorem startCommand_pCh (op : Byte) (ch : Channel) (s : State) : (startCommand op ch s).pCh = ch := rfl
@[simp] theorem startCommand_rem (op : Byte) (ch : Channel) (s : State) : (startCommand op ch s).rem = 2#2 := rfl
@[simp] theorem startCommand_d0 (op : Byte) (ch : Channel) (s : State) : (startCommand op ch s).d0 = s.d0 := rfl
@[simp] theorem startCommand_acc (op : Byte) (ch : Channel) (s : State) : (startCommand op ch s).acc = s.acc := rfl
@[simp] theorem startCommand_cnt (op : Byte) (ch : Channel) (s : State) : (startCommand op ch s).cnt = s.cnt := rfl
@[simp] theorem startCommand_port (op : Byte) (ch : Channel) (s : State) : (startCommand op ch s).port = s.port := rfl
@[simp] theorem startCommand_ana (op : Byte) (ch : Channel) (s : State) : (startCommand op ch s).ana = s.ana := rfl
@[simp] theorem startCommand_verMajor (op : Byte) (ch : Channel) (s : State) : (startCommand op ch s).verMajor = s.verMajor := rfl
@[simp] theorem startCommand_verMinor (op : Byte) (ch : Channel) (s : State) : (startCommand op ch s).verMinor = s.verMinor := rfl
@[simp] theorem startCommand_lastAct (op : Byte) (ch : Channel) (s : State) : (startCommand op ch s).lastAct = s.lastAct := rfl
@[simp] theorem startCommand_fault (op : Byte) (ch : Channel) (s : State) : (startCommand op ch s).fault = s.fault := rfl
@[simp] theorem startCommand_faultCh (op : Byte) (ch : Channel) (s : State) : (startCommand op ch s).faultCh = s.faultCh := rfl
@[simp] theorem startCommand_i2cAddr (op : Byte) (ch : Channel) (s : State) : (startCommand op ch s).i2cAddr = s.i2cAddr := rfl
@[simp] theorem startCommand_i2cReg (op : Byte) (ch : Channel) (s : State) : (startCommand op ch s).i2cReg = s.i2cReg := rfl
@[simp] theorem startCommand_i2cLen (op : Byte) (ch : Channel) (s : State) : (startCommand op ch s).i2cLen = s.i2cLen := rfl
@[simp] theorem startCommand_i2cPl (op : Byte) (ch : Channel) (s : State) : (startCommand op ch s).i2cPl = s.i2cPl := rfl
@[simp] theorem startCommand_evt (op : Byte) (ch : Channel) (s : State) : (startCommand op ch s).evt = s.evt := rfl
@[simp] theorem startCommand_events (op : Byte) (ch : Channel) (s : State) : (startCommand op ch s).events = s.events := rfl
@[simp] theorem startCommand_inputs (op : Byte) (ch : Channel) (s : State) : (startCommand op ch s).inputs = s.inputs := rfl
@[simp] theorem startCommand_draw (op : Byte) (ch : Channel) (s : State) : (startCommand op ch s).draw = s.draw := rfl

/-! ### storeFirst -/

@[simp] theorem storeFirst_cfg (d : Data7) (s : State) : (storeFirst d s).cfg = s.cfg := rfl
@[simp] theorem storeFirst_mode (d : Data7) (s : State) : (storeFirst d s).mode = s.mode := rfl
@[simp] theorem storeFirst_pOp (d : Data7) (s : State) : (storeFirst d s).pOp = s.pOp := rfl
@[simp] theorem storeFirst_pCh (d : Data7) (s : State) : (storeFirst d s).pCh = s.pCh := rfl
@[simp] theorem storeFirst_rem (d : Data7) (s : State) : (storeFirst d s).rem = 1#2 := rfl
@[simp] theorem storeFirst_d0 (d : Data7) (s : State) : (storeFirst d s).d0 = d := rfl
@[simp] theorem storeFirst_acc (d : Data7) (s : State) : (storeFirst d s).acc = s.acc := rfl
@[simp] theorem storeFirst_cnt (d : Data7) (s : State) : (storeFirst d s).cnt = s.cnt := rfl
@[simp] theorem storeFirst_port (d : Data7) (s : State) : (storeFirst d s).port = s.port := rfl
@[simp] theorem storeFirst_ana (d : Data7) (s : State) : (storeFirst d s).ana = s.ana := rfl
@[simp] theorem storeFirst_verMajor (d : Data7) (s : State) : (storeFirst d s).verMajor = s.verMajor := rfl
@[simp] theorem storeFirst_verMinor (d : Data7) (s : State) : (storeFirst d s).verMinor = s.verMinor := rfl
@[simp] theorem storeFirst_lastAct (d : Data7) (s : State) : (storeFirst d s).lastAct = s.lastAct := rfl
@[simp] theorem storeFirst_fault (d : Data7) (s : State) : (storeFirst d s).fault = s.fault := rfl
@[simp] theorem storeFirst_faultCh (d : Data7) (s : State) : (storeFirst d s).faultCh = s.faultCh := rfl
@[simp] theorem storeFirst_i2cAddr (d : Data7) (s : State) : (storeFirst d s).i2cAddr = s.i2cAddr := rfl
@[simp] theorem storeFirst_i2cReg (d : Data7) (s : State) : (storeFirst d s).i2cReg = s.i2cReg := rfl
@[simp] theorem storeFirst_i2cLen (d : Data7) (s : State) : (storeFirst d s).i2cLen = s.i2cLen := rfl
@[simp] theorem storeFirst_i2cPl (d : Data7) (s : State) : (storeFirst d s).i2cPl = s.i2cPl := rfl
@[simp] theorem storeFirst_evt (d : Data7) (s : State) : (storeFirst d s).evt = s.evt := rfl
@[simp] theorem storeFirst_events (d : Data7) (s : State) : (storeFirst d s).events = s.events := rfl
@[simp] theorem storeFirst_inputs (d : Data7) (s : State) : (storeFirst d s).inputs = s.inputs := rfl
@[simp] theorem storeFirst_draw (d : Data7) (s : State) : (storeFirst d s).draw = s.draw := rfl

/-! ### finishCommand -/

@[simp] theorem finishCommand_cfg (s : State) : (finishCommand s).cfg = s.cfg := rfl
@[simp] theorem finishCommand_mode (s : State) : (finishCommand s).mode = .idle := rfl
@[simp] theorem finishCommand_pOp (s : State) : (finishCommand s).pOp = s.pOp := rfl
@[simp] theorem finishCommand_pCh (s : State) : (finishCommand s).pCh = s.pCh := rfl
@[simp] theorem finishCommand_rem (s : State) : (finishCommand s).rem = 0#2 := rfl
@[simp] theorem finishCommand_d0 (s : State) : (finishCommand s).d0 = s.d0 := rfl
@[simp] theorem finishCommand_acc (s : State) : (finishCommand s).acc = s.acc := rfl
@[simp] theorem finishCommand_cnt (s : State) : (finishCommand s).cnt = s.cnt := rfl
@[simp] theorem finishCommand_port (s : State) : (finishCommand s).port = s.port := rfl
@[simp] theorem finishCommand_ana (s : State) : (finishCommand s).ana = s.ana := rfl
@[simp] theorem finishCommand_verMajor (s : State) : (finishCommand s).verMajor = s.verMajor := rfl
@[simp] theorem finishCommand_verMinor (s : State) : (finishCommand s).verMinor = s.verMinor := rfl
@[simp] theorem finishCommand_lastAct (s : State) : (finishCommand s).lastAct = s.lastAct := rfl
@[simp] theorem finishCommand_fault (s : State) : (finishCommand s).fault = s.fault := rfl
@[simp] theorem finishCommand_faultCh (s : State) : (finishCommand s).faultCh = s.faultCh := rfl
@[simp] theorem finishCommand_i2cAddr (s : State) : (finishCommand s).i2cAddr = s.i2cAddr := rfl
@[simp] theorem finishCommand_i2cReg (s : State) : (finishCommand s).i2cReg = s.i2cReg := rfl
@[simp] theorem finishCommand_i2cLen (s : State) : (finishCommand s).i2cLen = s.i2cLen := rfl
@[simp] theorem finishCommand_i2cPl (s : State) : (finishCommand s).i2cPl = s.i2cPl := rfl
@[simp] theorem finishCommand_evt (s : State) : (finishCommand s).evt = s.evt := rfl
@[simp] theorem finishCommand_events (s : State) : (finishCommand s).events = s.events := rfl
@[simp] theorem finishCommand_inputs (s : State) : (finishCommand s).inputs = s.inputs := rfl
@[simp] theorem finishCommand_draw (s : State) : (finishCommand s).draw = s.draw := rfl

/-! ### pushBody -/

@[simp] theorem pushBody_cfg (b : Byte) (s : State) : (pushBody b s).cfg = s.cfg := rfl
@[simp] theorem pushBody_mode (b : Byte) (s : State) : (pushBody b s).mode = s.mode := rfl
@[simp] theorem pushBody_pOp (b : Byte) (s : State) : (pushBody b s).pOp = s.pOp := rfl
@[simp] theorem pushBody_pCh (b : Byte) (s : State) : (pushBody b s).pCh = s.pCh := rfl
@[simp] theorem pushBody_rem (b : Byte) (s : State) : (pushBody b s).rem = s.rem := rfl
@[simp] theorem pushBody_d0 (b : Byte) (s : State) : (pushBody b s).d0 = s.d0 := rfl
@[simp] theorem pushBody_acc (b : Byte) (s : State) : (pushBody b s).acc = s.acc.write s.cnt.toNat b := rfl
@[simp] theorem pushBody_cnt (b : Byte) (s : State) : (pushBody b s).cnt = s.cnt + 1#8 := rfl
@[simp] theorem pushBody_port (b : Byte) (s : State) : (pushBody b s).port = s.port := rfl
@[simp] theorem pushBody_ana (b : Byte) (s : State) : (pushBody b s).ana = s.ana := rfl
@[simp] theorem pushBody_verMajor (b : Byte) (s : State) : (pushBody b s).verMajor = s.verMajor := rfl
@[simp] theorem pushBody_verMinor (b : Byte) (s : State) : (pushBody b s).verMinor = s.verMinor := rfl
@[simp] theorem pushBody_lastAct (b : Byte) (s : State) : (pushBody b s).lastAct = s.lastAct := rfl
@[simp] theorem pushBody_fault (b : Byte) (s : State) : (pushBody b s).fault = s.fault := rfl
@[simp] theorem pushBody_faultCh (b : Byte) (s : State) : (pushBody b s).faultCh = s.faultCh := rfl
@[simp] theorem pushBody_i2cAddr (b : Byte) (s : State) : (pushBody b s).i2cAddr = s.i2cAddr := rfl
@[simp] theorem pushBody_i2cReg (b : Byte) (s : State) : (pushBody b s).i2cReg = s.i2cReg := rfl
@[simp] theorem pushBody_i2cLen (b : Byte) (s : State) : (pushBody b s).i2cLen = s.i2cLen := rfl
@[simp] theorem pushBody_i2cPl (b : Byte) (s : State) : (pushBody b s).i2cPl = s.i2cPl := rfl
@[simp] theorem pushBody_evt (b : Byte) (s : State) : (pushBody b s).evt = s.evt := rfl
@[simp] theorem pushBody_events (b : Byte) (s : State) : (pushBody b s).events = s.events := rfl
@[simp] theorem pushBody_inputs (b : Byte) (s : State) : (pushBody b s).inputs = s.inputs := rfl
@[simp] theorem pushBody_draw (b : Byte) (s : State) : (pushBody b s).draw = s.draw := rfl

/-! ### emptyBody -/

@[simp] theorem emptyBody_cfg (s : State) : (emptyBody s).cfg = s.cfg := rfl
@[simp] theorem emptyBody_mode (s : State) : (emptyBody s).mode = s.mode := rfl
@[simp] theorem emptyBody_pOp (s : State) : (emptyBody s).pOp = s.pOp := rfl
@[simp] theorem emptyBody_pCh (s : State) : (emptyBody s).pCh = s.pCh := rfl
@[simp] theorem emptyBody_rem (s : State) : (emptyBody s).rem = s.rem := rfl
@[simp] theorem emptyBody_d0 (s : State) : (emptyBody s).d0 = s.d0 := rfl
@[simp] theorem emptyBody_acc (s : State) : (emptyBody s).acc = [] := rfl
@[simp] theorem emptyBody_cnt (s : State) : (emptyBody s).cnt = 0#8 := rfl
@[simp] theorem emptyBody_port (s : State) : (emptyBody s).port = s.port := rfl
@[simp] theorem emptyBody_ana (s : State) : (emptyBody s).ana = s.ana := rfl
@[simp] theorem emptyBody_verMajor (s : State) : (emptyBody s).verMajor = s.verMajor := rfl
@[simp] theorem emptyBody_verMinor (s : State) : (emptyBody s).verMinor = s.verMinor := rfl
@[simp] theorem emptyBody_lastAct (s : State) : (emptyBody s).lastAct = s.lastAct := rfl
@[simp] theorem emptyBody_fault (s : State) : (emptyBody s).fault = s.fault := rfl
@[simp] theorem emptyBody_faultCh (s : State) : (emptyBody s).faultCh = s.faultCh := rfl
@[simp] theorem emptyBody_i2cAddr (s : State) : (emptyBody s).i2cAddr = s.i2cAddr := rfl
@[simp] theorem emptyBody_i2cReg (s : State) : (emptyBody s).i2cReg = s.i2cReg := rfl
@[simp] theorem emptyBody_i2cLen (s : State) : (emptyBody s).i2cLen = s.i2cLen := rfl
@[simp] theorem emptyBody_i2cPl (s : State) : (emptyBody s).i2cPl = s.i2cPl := rfl
@[simp] theorem emptyBody_evt (s : State) : (emptyBody s).evt = s.evt := rfl
@[simp] theorem emptyBody_events (s : State) : (emptyBody s).events = s.events := rfl
@[simp] theorem emptyBody_inputs (s : State) : (emptyBody s).inputs = s.inputs := rfl
@[simp] theorem emptyBody_draw (s : State) : (emptyBody s).draw = s.draw := rfl

/-! ### openSysex -/

@[simp] theorem openSysex_cfg (s : State) : (openSysex s).cfg = s.cfg := rfl
@[simp] theorem openSysex_mode (s : State) : (openSysex s).mode = .sysex := rfl
@[simp] theorem openSysex_pOp (s : State) : (openSysex s).pOp = s.pOp := rfl
@[simp] theorem openSysex_pCh (s : State) : (openSysex s).pCh = s.pCh := rfl
@[simp] theorem openSysex_rem (s : State) : (openSysex s).rem = s.rem := rfl
@[simp] theorem openSysex_d0 (s : State) : (openSysex s).d0 = s.d0 := rfl
@[simp] theorem openSysex_acc (s : State) : (openSysex s).acc = [] := rfl
@[simp] theorem openSysex_cnt (s : State) : (openSysex s).cnt = 0#8 := rfl
@[simp] theorem openSysex_port (s : State) : (openSysex s).port = s.port := rfl
@[simp] theorem openSysex_ana (s : State) : (openSysex s).ana = s.ana := rfl
@[simp] theorem openSysex_verMajor (s : State) : (openSysex s).verMajor = s.verMajor := rfl
@[simp] theorem openSysex_verMinor (s : State) : (openSysex s).verMinor = s.verMinor := rfl
@[simp] theorem openSysex_lastAct (s : State) : (openSysex s).lastAct = s.lastAct := rfl
@[simp] theorem openSysex_fault (s : State) : (openSysex s).fault = s.fault := rfl
@[simp] theorem openSysex_faultCh (s : State) : (openSysex s).faultCh = s.faultCh := rfl
@[simp] theorem openSysex_i2cAddr (s : State) : (openSysex s).i2cAddr = s.i2cAddr := rfl
@[simp] theorem openSysex_i2cReg (s : State) : (openSysex s).i2cReg = s.i2cReg := rfl
@[simp] theorem openSysex_i2cLen (s : State) : (openSysex s).i2cLen = s.i2cLen := rfl
@[simp] theorem openSysex_i2cPl (s : State) : (openSysex s).i2cPl = s.i2cPl := rfl
@[simp] theorem openSysex_evt (s : State) : (openSysex s).evt = s.evt := rfl
@[simp] theorem openSysex_events (s : State) : (openSysex s).events = s.events := rfl
@[simp] theorem openSysex_inputs (s : State) : (openSysex s).inputs = s.inputs := rfl
@[simp] theorem openSysex_draw (s : State) : (openSysex s).draw = s.draw := rfl

/-! ### closeSysex -/

@[simp] theorem closeSysex_cfg (s : State) : (closeSysex s).cfg = s.cfg := rfl
@[simp] theorem closeSysex_mode (s : State) : (closeSysex s).mode = .idle := rfl
@[simp] theorem closeSysex_pOp (s : State) : (closeSysex s).pOp = s.pOp := rfl
@[simp] theorem closeSysex_pCh (s : State) : (closeSysex s).pCh = s.pCh := rfl
@[simp] theorem closeSysex_rem (s : State) : (closeSysex s).rem = s.rem := rfl
@[simp] theorem closeSysex_d0 (s : State) : (closeSysex s).d0 = s.d0 := rfl
@[simp] theorem closeSysex_acc (s : State) : (closeSysex s).acc = [] := rfl
@[simp] theorem closeSysex_cnt (s : State) : (closeSysex s).cnt = 0#8 := rfl
@[simp] theorem closeSysex_port (s : State) : (closeSysex s).port = s.port := rfl
@[simp] theorem closeSysex_ana (s : State) : (closeSysex s).ana = s.ana := rfl
@[simp] theorem closeSysex_verMajor (s : State) : (closeSysex s).verMajor = s.verMajor := rfl
@[simp] theorem closeSysex_verMinor (s : State) : (closeSysex s).verMinor = s.verMinor := rfl
@[simp] theorem closeSysex_lastAct (s : State) : (closeSysex s).lastAct = s.lastAct := rfl
@[simp] theorem closeSysex_fault (s : State) : (closeSysex s).fault = s.fault := rfl
@[simp] theorem closeSysex_faultCh (s : State) : (closeSysex s).faultCh = s.faultCh := rfl
@[simp] theorem closeSysex_i2cAddr (s : State) : (closeSysex s).i2cAddr = s.i2cAddr := rfl
@[simp] theorem closeSysex_i2cReg (s : State) : (closeSysex s).i2cReg = s.i2cReg := rfl
@[simp] theorem closeSysex_i2cLen (s : State) : (closeSysex s).i2cLen = s.i2cLen := rfl
@[simp] theorem closeSysex_i2cPl (s : State) : (closeSysex s).i2cPl = s.i2cPl := rfl
@[simp] theorem closeSysex_evt (s : State) : (closeSysex s).evt = s.evt := rfl
@[simp] theorem closeSysex_events (s : State) : (closeSysex s).events = s.events := rfl
@[simp] theorem closeSysex_inputs (s : State) : (closeSysex s).inputs = s.inputs := rfl
@[simp] theorem closeSysex_draw (s : State) : (closeSysex s).draw = s.draw := rfl

/-! ### setPort -/

@[simp] theorem setPort_cfg (ch : Channel) (v : Half) (s : State) : (setPort ch v s).cfg = s.cfg := rfl
@[simp] theorem setPort_mode (ch : Channel) (v : Half) (s : State) : (setPort ch v s).mode = s.mode := rfl
@[simp] theorem setPort_pOp (ch : Channel) (v : Half) (s : State) : (setPort ch v s).pOp = s.pOp := rfl
@[simp] theorem setPort_pCh (ch : Channel) (v : Half) (s : State) : (setPort ch v s).pCh = s.pCh := rfl
@[simp] theorem setPort_rem (ch : Channel) (v : Half) (s : State) : (setPort ch v s).rem = s.rem := rfl
@[simp] theorem setPort_d0 (ch : Channel) (v : Half) (s : State) : (setPort ch v s).d0 = s.d0 := rfl
@[simp] theorem setPort_acc (ch : Channel) (v : Half) (s : State) : (setPort ch v s).acc = s.acc := rfl
@[simp] theorem setPort_cnt (ch : Channel) (v : Half) (s : State) : (setPort ch v s).cnt = s.cnt := rfl
@[simp] theorem setPort_port (ch : Channel) (v : Half) (s : State) : (setPort ch v s).port = s.port.set ch.toNat v := rfl
@[simp] theorem setPort_ana (ch : Channel) (v : Half) (s : State) : (setPort ch v s).ana = s.ana := rfl
@[simp] theorem setPort_verMajor (ch : Channel) (v : Half) (s : State) : (setPort ch v s).verMajor = s.verMajor := rfl
@[simp] theorem setPort_verMinor (ch : Channel) (v : Half) (s : State) : (setPort ch v s).verMinor = s.verMinor := rfl
@[simp] theorem setPort_lastAct (ch : Channel) (v : Half) (s : State) : (setPort ch v s).lastAct = s.lastAct := rfl
@[simp] theorem setPort_fault (ch : Channel) (v : Half) (s : State) : (setPort ch v s).fault = s.fault := rfl
@[simp] theorem setPort_faultCh (ch : Channel) (v : Half) (s : State) : (setPort ch v s).faultCh = s.faultCh := rfl
@[simp] theorem setPort_i2cAddr (ch : Channel) (v : Half) (s : State) : (setPort ch v s).i2cAddr = s.i2cAddr := rfl
@[simp] theorem setPort_i2cReg (ch : Channel) (v : Half) (s : State) : (setPort ch v s).i2cReg = s.i2cReg := rfl
@[simp] theorem setPort_i2cLen (ch : Channel) (v : Half) (s : State) : (setPort ch v s).i2cLen = s.i2cLen := rfl
@[simp] theorem setPort_i2cPl (ch : Channel) (v : Half) (s : State) : (setPort ch v s).i2cPl = s.i2cPl := rfl
@[simp] theorem setPort_evt (ch : Channel) (v : Half) (s : State) : (setPort ch v s).evt = s.evt := rfl
@[simp] theorem setPort_events (ch : Channel) (v : Half) (s : State) : (setPort ch v s).events = s.events := rfl
@[simp] theorem setPort_inputs (ch : Channel) (v : Half) (s : State) : (setPort ch v s).inputs = s.inputs := rfl
@[simp] theorem setPort_draw (ch : Channel) (v : Half) (s : State) : (setPort ch v s).draw = s.draw := rfl

/-! ### setAna -/

@[simp] theorem setAna_cfg (ch : Channel) (v : Half) (s : State) : (setAna ch v s).cfg = s.cfg := rfl
@[simp] theorem setAna_mode (ch : Channel) (v : Half) (s : State) : (setAna ch v s).mode = s.mode := rfl
@[simp] theorem setAna_pOp (ch : Channel) (v : Half) (s : State) : (setAna ch v s).pOp = s.pOp := rfl
@[simp] theorem setAna_pCh (ch : Channel) (v : Half) (s : State) : (setAna ch v s).pCh = s.pCh := rfl
@[simp] theorem setAna_rem (ch : Channel) (v : Half) (s : State) : (setAna ch v s).rem = s.rem := rfl
@[simp] theorem setAna_d0 (ch : Channel) (v : Half) (s : State) : (setAna ch v s).d0 = s.d0 := rfl
@[simp] theorem setAna_acc (ch : Channel) (v : Half) (s : State) : (setAna ch v s).acc = s.acc := rfl
@[simp] theorem setAna_cnt (ch : Channel) (v : Half) (s : State) : (setAna ch v s).cnt = s.cnt := rfl
@[simp] theorem setAna_port (ch : Channel) (v : Half) (s : State) : (setAna ch v s).port = s.port := rfl
@[simp] theorem setAna_ana (ch : Channel) (v : Half) (s : State) : (setAna ch v s).ana = s.ana.set ch.toNat v := rfl
@[simp] theorem setAna_verMajor (ch : Channel) (v : Half) (s : State) : (setAna ch v s).verMajor = s.verMajor := rfl
@[simp] theorem setAna_verMinor (ch : Channel) (v : Half) (s : State) : (setAna ch v s).verMinor = s.verMinor := rfl
@[simp] theorem setAna_lastAct (ch : Channel) (v : Half) (s : State) : (setAna ch v s).lastAct = s.lastAct := rfl
@[simp] theorem setAna_fault (ch : Channel) (v : Half) (s : State) : (setAna ch v s).fault = s.fault := rfl
@[simp] theorem setAna_faultCh (ch : Channel) (v : Half) (s : State) : (setAna ch v s).faultCh = s.faultCh := rfl
@[simp] theorem setAna_i2cAddr (ch : Channel) (v : Half) (s : State) : (setAna ch v s).i2cAddr = s.i2cAddr := rfl
@[simp] theorem setAna_i2cReg (ch : Channel) (v : Half) (s : State) : (setAna ch v s).i2cReg = s.i2cReg := rfl
@[simp] theorem setAna_i2cLen (ch : Channel) (v : Half) (s : State) : (setAna ch v s).i2cLen = s.i2cLen := rfl
@[simp] theorem setAna_i2cPl (ch : Channel) (v : Half) (s : State) : (setAna ch v s).i2cPl = s.i2cPl := rfl
@[simp] theorem setAna_evt (ch : Channel) (v : Half) (s : State) : (setAna ch v s).evt = s.evt := rfl
@[simp] theorem setAna_events (ch : Channel) (v : Half) (s : State) : (setAna ch v s).events = s.events := rfl
@[simp] theorem setAna_inputs (ch : Channel) (v : Half) (s : State) : (setAna ch v s).inputs = s.inputs := rfl
@[simp] theorem setAna_draw (ch : Channel) (v : Half) (s : State) : (setAna ch v s).draw = s.draw := rfl

/-! ### setVersion -/

@[simp] theorem setVersion_cfg (major minor : Data7) (s : State) : (setVersion major minor s).cfg = s.cfg := rfl
@[simp] theorem setVersion_mode (major minor : Data7) (s : State) : (setVersion major minor s).mode = s.mode := rfl
@[simp] theorem setVersion_pOp (major minor : Data7) (s : State) : (setVersion major minor s).pOp = s.pOp := rfl
@[simp] theorem setVersion_pCh (major minor : Data7) (s : State) : (setVersion major minor s).pCh = s.pCh := rfl
@[simp] theorem setVersion_rem (major minor : Data7) (s : State) : (setVersion major minor s).rem = s.rem := rfl
@[simp] theorem setVersion_d0 (major minor : Data7) (s : State) : (setVersion major minor s).d0 = s.d0 := rfl
@[simp] theorem setVersion_acc (major minor : Data7) (s : State) : (setVersion major minor s).acc = s.acc := rfl
@[simp] theorem setVersion_cnt (major minor : Data7) (s : State) : (setVersion major minor s).cnt = s.cnt := rfl
@[simp] theorem setVersion_port (major minor : Data7) (s : State) : (setVersion major minor s).port = s.port := rfl
@[simp] theorem setVersion_ana (major minor : Data7) (s : State) : (setVersion major minor s).ana = s.ana := rfl
@[simp] theorem setVersion_verMajor (major minor : Data7) (s : State) : (setVersion major minor s).verMajor = major := rfl
@[simp] theorem setVersion_verMinor (major minor : Data7) (s : State) : (setVersion major minor s).verMinor = minor := rfl
@[simp] theorem setVersion_lastAct (major minor : Data7) (s : State) : (setVersion major minor s).lastAct = s.lastAct := rfl
@[simp] theorem setVersion_fault (major minor : Data7) (s : State) : (setVersion major minor s).fault = s.fault := rfl
@[simp] theorem setVersion_faultCh (major minor : Data7) (s : State) : (setVersion major minor s).faultCh = s.faultCh := rfl
@[simp] theorem setVersion_i2cAddr (major minor : Data7) (s : State) : (setVersion major minor s).i2cAddr = s.i2cAddr := rfl
@[simp] theorem setVersion_i2cReg (major minor : Data7) (s : State) : (setVersion major minor s).i2cReg = s.i2cReg := rfl
@[simp] theorem setVersion_i2cLen (major minor : Data7) (s : State) : (setVersion major minor s).i2cLen = s.i2cLen := rfl
@[simp] theorem setVersion_i2cPl (major minor : Data7) (s : State) : (setVersion major minor s).i2cPl = s.i2cPl := rfl
@[simp] theorem setVersion_evt (major minor : Data7) (s : State) : (setVersion major minor s).evt = s.evt := rfl
@[simp] theorem setVersion_events (major minor : Data7) (s : State) : (setVersion major minor s).events = s.events := rfl
@[simp] theorem setVersion_inputs (major minor : Data7) (s : State) : (setVersion major minor s).inputs = s.inputs := rfl
@[simp] theorem setVersion_draw (major minor : Data7) (s : State) : (setVersion major minor s).draw = s.draw := rfl

/-! ### emitEvents -/

@[simp] theorem emitEvents_cfg (w : EventWord) (es : List Event) (s : State) : (emitEvents w es s).cfg = s.cfg := rfl
@[simp] theorem emitEvents_mode (w : EventWord) (es : List Event) (s : State) : (emitEvents w es s).mode = s.mode := rfl
@[simp] theorem emitEvents_pOp (w : EventWord) (es : List Event) (s : State) : (emitEvents w es s).pOp = s.pOp := rfl
@[simp] theorem emitEvents_pCh (w : EventWord) (es : List Event) (s : State) : (emitEvents w es s).pCh = s.pCh := rfl
@[simp] theorem emitEvents_rem (w : EventWord) (es : List Event) (s : State) : (emitEvents w es s).rem = s.rem := rfl
@[simp] theorem emitEvents_d0 (w : EventWord) (es : List Event) (s : State) : (emitEvents w es s).d0 = s.d0 := rfl
@[simp] theorem emitEvents_acc (w : EventWord) (es : List Event) (s : State) : (emitEvents w es s).acc = s.acc := rfl
@[simp] theorem emitEvents_cnt (w : EventWord) (es : List Event) (s : State) : (emitEvents w es s).cnt = s.cnt := rfl
@[simp] theorem emitEvents_port (w : EventWord) (es : List Event) (s : State) : (emitEvents w es s).port = s.port := rfl
@[simp] theorem emitEvents_ana (w : EventWord) (es : List Event) (s : State) : (emitEvents w es s).ana = s.ana := rfl
@[simp] theorem emitEvents_verMajor (w : EventWord) (es : List Event) (s : State) : (emitEvents w es s).verMajor = s.verMajor := rfl
@[simp] theorem emitEvents_verMinor (w : EventWord) (es : List Event) (s : State) : (emitEvents w es s).verMinor = s.verMinor := rfl
@[simp] theorem emitEvents_lastAct (w : EventWord) (es : List Event) (s : State) : (emitEvents w es s).lastAct = s.lastAct := rfl
@[simp] theorem emitEvents_fault (w : EventWord) (es : List Event) (s : State) : (emitEvents w es s).fault = s.fault := rfl
@[simp] theorem emitEvents_faultCh (w : EventWord) (es : List Event) (s : State) : (emitEvents w es s).faultCh = s.faultCh := rfl
@[simp] theorem emitEvents_i2cAddr (w : EventWord) (es : List Event) (s : State) : (emitEvents w es s).i2cAddr = s.i2cAddr := rfl
@[simp] theorem emitEvents_i2cReg (w : EventWord) (es : List Event) (s : State) : (emitEvents w es s).i2cReg = s.i2cReg := rfl
@[simp] theorem emitEvents_i2cLen (w : EventWord) (es : List Event) (s : State) : (emitEvents w es s).i2cLen = s.i2cLen := rfl
@[simp] theorem emitEvents_i2cPl (w : EventWord) (es : List Event) (s : State) : (emitEvents w es s).i2cPl = s.i2cPl := rfl
@[simp] theorem emitEvents_evt (w : EventWord) (es : List Event) (s : State) : (emitEvents w es s).evt = w := rfl
@[simp] theorem emitEvents_events (w : EventWord) (es : List Event) (s : State) : (emitEvents w es s).events = es := rfl
@[simp] theorem emitEvents_inputs (w : EventWord) (es : List Event) (s : State) : (emitEvents w es s).inputs = s.inputs := rfl
@[simp] theorem emitEvents_draw (w : EventWord) (es : List Event) (s : State) : (emitEvents w es s).draw = s.draw := rfl

/-! ### latchReply -/

@[simp] theorem latchReply_cfg (a r : Half) (p : List Byte) (s : State) : (latchReply a r p s).cfg = s.cfg := rfl
@[simp] theorem latchReply_mode (a r : Half) (p : List Byte) (s : State) : (latchReply a r p s).mode = s.mode := rfl
@[simp] theorem latchReply_pOp (a r : Half) (p : List Byte) (s : State) : (latchReply a r p s).pOp = s.pOp := rfl
@[simp] theorem latchReply_pCh (a r : Half) (p : List Byte) (s : State) : (latchReply a r p s).pCh = s.pCh := rfl
@[simp] theorem latchReply_rem (a r : Half) (p : List Byte) (s : State) : (latchReply a r p s).rem = s.rem := rfl
@[simp] theorem latchReply_d0 (a r : Half) (p : List Byte) (s : State) : (latchReply a r p s).d0 = s.d0 := rfl
@[simp] theorem latchReply_acc (a r : Half) (p : List Byte) (s : State) : (latchReply a r p s).acc = s.acc := rfl
@[simp] theorem latchReply_cnt (a r : Half) (p : List Byte) (s : State) : (latchReply a r p s).cnt = s.cnt := rfl
@[simp] theorem latchReply_port (a r : Half) (p : List Byte) (s : State) : (latchReply a r p s).port = s.port := rfl
@[simp] theorem latchReply_ana (a r : Half) (p : List Byte) (s : State) : (latchReply a r p s).ana = s.ana := rfl
@[simp] theorem latchReply_verMajor (a r : Half) (p : List Byte) (s : State) : (latchReply a r p s).verMajor = s.verMajor := rfl
@[simp] theorem latchReply_verMinor (a r : Half) (p : List Byte) (s : State) : (latchReply a r p s).verMinor = s.verMinor := rfl
@[simp] theorem latchReply_lastAct (a r : Half) (p : List Byte) (s : State) : (latchReply a r p s).lastAct = s.lastAct := rfl
@[simp] theorem latchReply_fault (a r : Half) (p : List Byte) (s : State) : (latchReply a r p s).fault = s.fault := rfl
@[simp] theorem latchReply_faultCh (a r : Half) (p : List Byte) (s : State) : (latchReply a r p s).faultCh = s.faultCh := rfl
@[simp] theorem latchReply_i2cAddr (a r : Half) (p : List Byte) (s : State) : (latchReply a r p s).i2cAddr = a := rfl
@[simp] theorem latchReply_i2cReg (a r : Half) (p : List Byte) (s : State) : (latchReply a r p s).i2cReg = r := rfl
@[simp] theorem latchReply_i2cLen (a r : Half) (p : List Byte) (s : State) : (latchReply a r p s).i2cLen = BitVec.ofNat 8 p.length := rfl
@[simp] theorem latchReply_i2cPl (a r : Half) (p : List Byte) (s : State) : (latchReply a r p s).i2cPl = Memory.ofBytes 0 p := rfl
@[simp] theorem latchReply_evt (a r : Half) (p : List Byte) (s : State) : (latchReply a r p s).evt = s.evt := rfl
@[simp] theorem latchReply_events (a r : Half) (p : List Byte) (s : State) : (latchReply a r p s).events = s.events := rfl
@[simp] theorem latchReply_inputs (a r : Half) (p : List Byte) (s : State) : (latchReply a r p s).inputs = s.inputs := rfl
@[simp] theorem latchReply_draw (a r : Half) (p : List Byte) (s : State) : (latchReply a r p s).draw = s.draw := rfl

/-! ### State.resetAt and resetStep -/

@[simp] theorem resetAt_cfg (c : Config) (t0 : Nat) : (State.resetAt c t0).cfg = c := rfl
@[simp] theorem resetAt_mode (c : Config) (t0 : Nat) : (State.resetAt c t0).mode = .idle := rfl
@[simp] theorem resetAt_pOp (c : Config) (t0 : Nat) : (State.resetAt c t0).pOp = 0#8 := rfl
@[simp] theorem resetAt_pCh (c : Config) (t0 : Nat) : (State.resetAt c t0).pCh = 0#4 := rfl
@[simp] theorem resetAt_rem (c : Config) (t0 : Nat) : (State.resetAt c t0).rem = 0#2 := rfl
@[simp] theorem resetAt_d0 (c : Config) (t0 : Nat) : (State.resetAt c t0).d0 = 0#7 := rfl
@[simp] theorem resetAt_acc (c : Config) (t0 : Nat) : (State.resetAt c t0).acc = [] := rfl
@[simp] theorem resetAt_cnt (c : Config) (t0 : Nat) : (State.resetAt c t0).cnt = 0#8 := rfl
@[simp] theorem resetAt_port (c : Config) (t0 : Nat) : (State.resetAt c t0).port = Vector.replicate 16 0#16 := rfl
@[simp] theorem resetAt_ana (c : Config) (t0 : Nat) : (State.resetAt c t0).ana = Vector.replicate 16 0#16 := rfl
@[simp] theorem resetAt_verMajor (c : Config) (t0 : Nat) : (State.resetAt c t0).verMajor = 0#7 := rfl
@[simp] theorem resetAt_verMinor (c : Config) (t0 : Nat) : (State.resetAt c t0).verMinor = 0#7 := rfl
@[simp] theorem resetAt_lastAct (c : Config) (t0 : Nat) : (State.resetAt c t0).lastAct = t0 % 2 ^ c.timeW := rfl
@[simp] theorem resetAt_fault (c : Config) (t0 : Nat) : (State.resetAt c t0).fault = .none := rfl
@[simp] theorem resetAt_faultCh (c : Config) (t0 : Nat) : (State.resetAt c t0).faultCh = 0#4 := rfl
@[simp] theorem resetAt_i2cAddr (c : Config) (t0 : Nat) : (State.resetAt c t0).i2cAddr = 0#16 := rfl
@[simp] theorem resetAt_i2cReg (c : Config) (t0 : Nat) : (State.resetAt c t0).i2cReg = 0#16 := rfl
@[simp] theorem resetAt_i2cLen (c : Config) (t0 : Nat) : (State.resetAt c t0).i2cLen = 0#8 := rfl
@[simp] theorem resetAt_i2cPl (c : Config) (t0 : Nat) : (State.resetAt c t0).i2cPl = [] := rfl
@[simp] theorem resetAt_evt (c : Config) (t0 : Nat) : (State.resetAt c t0).evt = .none := rfl
@[simp] theorem resetAt_events (c : Config) (t0 : Nat) : (State.resetAt c t0).events = [] := rfl
@[simp] theorem resetAt_inputs (c : Config) (t0 : Nat) : (State.resetAt c t0).inputs = [] := rfl
@[simp] theorem resetAt_draw (c : Config) (t0 : Nat) : (State.resetAt c t0).draw = 0 := rfl

@[simp] theorem resetStep_cfg (t0 : Nat) (s : State) : (resetStep t0 s).cfg = s.cfg := rfl
@[simp] theorem resetStep_mode (t0 : Nat) (s : State) : (resetStep t0 s).mode = .idle := rfl
@[simp] theorem resetStep_pOp (t0 : Nat) (s : State) : (resetStep t0 s).pOp = 0#8 := rfl
@[simp] theorem resetStep_pCh (t0 : Nat) (s : State) : (resetStep t0 s).pCh = 0#4 := rfl
@[simp] theorem resetStep_rem (t0 : Nat) (s : State) : (resetStep t0 s).rem = 0#2 := rfl
@[simp] theorem resetStep_d0 (t0 : Nat) (s : State) : (resetStep t0 s).d0 = 0#7 := rfl
@[simp] theorem resetStep_acc (t0 : Nat) (s : State) : (resetStep t0 s).acc = [] := rfl
@[simp] theorem resetStep_cnt (t0 : Nat) (s : State) : (resetStep t0 s).cnt = 0#8 := rfl
@[simp] theorem resetStep_port (t0 : Nat) (s : State) : (resetStep t0 s).port = Vector.replicate 16 0#16 := rfl
@[simp] theorem resetStep_ana (t0 : Nat) (s : State) : (resetStep t0 s).ana = Vector.replicate 16 0#16 := rfl
@[simp] theorem resetStep_verMajor (t0 : Nat) (s : State) : (resetStep t0 s).verMajor = 0#7 := rfl
@[simp] theorem resetStep_verMinor (t0 : Nat) (s : State) : (resetStep t0 s).verMinor = 0#7 := rfl
@[simp] theorem resetStep_lastAct (t0 : Nat) (s : State) : (resetStep t0 s).lastAct = t0 % 2 ^ s.cfg.timeW := rfl
@[simp] theorem resetStep_fault (t0 : Nat) (s : State) : (resetStep t0 s).fault = .none := rfl
@[simp] theorem resetStep_faultCh (t0 : Nat) (s : State) : (resetStep t0 s).faultCh = 0#4 := rfl
@[simp] theorem resetStep_i2cAddr (t0 : Nat) (s : State) : (resetStep t0 s).i2cAddr = 0#16 := rfl
@[simp] theorem resetStep_i2cReg (t0 : Nat) (s : State) : (resetStep t0 s).i2cReg = 0#16 := rfl
@[simp] theorem resetStep_i2cLen (t0 : Nat) (s : State) : (resetStep t0 s).i2cLen = 0#8 := rfl
@[simp] theorem resetStep_i2cPl (t0 : Nat) (s : State) : (resetStep t0 s).i2cPl = [] := rfl
@[simp] theorem resetStep_evt (t0 : Nat) (s : State) : (resetStep t0 s).evt = .none := rfl
@[simp] theorem resetStep_events (t0 : Nat) (s : State) : (resetStep t0 s).events = [] := rfl
@[simp] theorem resetStep_inputs (t0 : Nat) (s : State) : (resetStep t0 s).inputs = s.inputs := rfl
@[simp] theorem resetStep_draw (t0 : Nat) (s : State) : (resetStep t0 s).draw = s.draw := rfl

end Sys2Proof.Machine
end

