-- ==== Sys2Proof/Laws/Ops.lean ====
section
/-! SUPPORT. One lemma per shared operation that says what it gives. -/

namespace Sys2Proof.Machine

/-! ### Inputs and time -/

theorem timeNow_lt (s : State) : timeNow s < 2 ^ s.cfg.timeW := Nat.mod_lt _ (Nat.two_pow_pos _)

@[simp] theorem pinsNow_offerStream (b : Byte) (t : Nat) (bs : List (Byte × Nat)) (s : State) :
    pinsNow (offerStream ((b, t) :: bs) s) = bytePins b t := rfl

@[simp] theorem inputOf_bytePins (b : Byte) (t : Nat) : inputOf (bytePins b t) = .byte b := rfl

@[simp] theorem inputOf_errorPins : inputOf errorPins = .transportError := rfl

@[simp] theorem inputOf_resetPins (t0 : Nat) : inputOf (resetPins t0) = .reset t0 := rfl

@[simp] theorem inputOf_quietPins : inputOf quietPins = .quiet := rfl

/-! ### Values -/

/-- The value of two data groups, as numbers. -/
theorem joinData_toNat (low high : Data7) : (joinData low high).toNat = low.toNat + 128 * high.toNat := by
  have hl := low.isLt
  have hh := high.isLt
  have h : low.setWidth 16 &&& high.setWidth 16 <<< 7 = (0#16) := by
    ext i hi
    simp only [BitVec.getElem_and, BitVec.getElem_setWidth, BitVec.getElem_shiftLeft, BitVec.getElem_zero]
    by_cases hi7 : i < 7
    · simp [hi7]
    · simp [BitVec.getLsbD_of_ge low i (by omega)]
  rw [joinData, ← BitVec.add_eq_or_of_and_eq_zero _ _ h, BitVec.toNat_add, BitVec.toNat_shiftLeft]
  simp only [BitVec.toNat_setWidth]
  rw [Nat.shiftLeft_eq]
  omega

theorem joinData_lt (low high : Data7) : (joinData low high).toNat < 0x4000 := by
  have hl := low.isLt
  have hh := high.isLt
  rw [joinData_toNat]
  omega

/-! ### The register files -/

theorem portOf_congr {s t : State} (h : t.port = s.port) (ch : Channel) : portOf t ch = portOf s ch := by
  simp only [portOf, h]

theorem anaOf_congr {s t : State} (h : t.ana = s.ana) (ch : Channel) : anaOf t ch = anaOf s ch := by
  simp only [anaOf, h]

theorem portOf_setPort (ch c : Channel) (v : Half) (s : State) :
    portOf (setPort ch v s) c = if c = ch then v else portOf s c := by
  simp only [portOf, setPort_port, Vector.getElem_set, ← BitVec.toNat_inj, eq_comm]

theorem anaOf_setAna (ch c : Channel) (v : Half) (s : State) :
    anaOf (setAna ch v s) c = if c = ch then v else anaOf s c := by
  simp only [anaOf, setAna_ana, Vector.getElem_set, ← BitVec.toNat_inj, eq_comm]

@[simp] theorem portOf_resetAt (c : Config) (t0 : Nat) (ch : Channel) : portOf (State.resetAt c t0) ch = 0#16 := by
  simp [portOf]

@[simp] theorem anaOf_resetAt (c : Config) (t0 : Nat) (ch : Channel) : anaOf (State.resetAt c t0) ch = 0#16 := by
  simp [anaOf]

theorem outOfRange_iff (ch : Channel) (n : Nat) : outOfRange ch n = true ↔ n ≤ ch.toNat := by simp [outOfRange]

/-! ### The branches of the multiplexer -/

theorem digitalBranch_halts {d : Data7} {s : State} (h : s.cfg.numPorts ≤ s.pCh.toNat) :
    digitalBranch d s = raiseFault .digRange s.pCh (consumeByte s) := by
  simp [digitalBranch, (outOfRange_iff _ _).2 h]

theorem digitalBranch_writes {d : Data7} {s : State} (h : s.pCh.toNat < s.cfg.numPorts) :
    digitalBranch d s =
      emitEvents (digitalWord s.pCh (portOf s s.pCh) (joinData s.d0 d))
        (digitalEvents s.pCh (portOf s s.pCh) (joinData s.d0 d))
        (setPort s.pCh (joinData s.d0 d) (finishCommand (consumeByte s))) := by
  have : outOfRange s.pCh s.cfg.numPorts = false := by simpa [outOfRange] using h
  simp [digitalBranch, this]

theorem analogBranch_halts {d : Data7} {s : State} (h : s.cfg.numAnalog ≤ s.pCh.toNat) :
    analogBranch d s = raiseFault .anaRange s.pCh (consumeByte s) := by
  simp [analogBranch, (outOfRange_iff _ _).2 h]

theorem analogBranch_writes {d : Data7} {s : State} (h : s.pCh.toNat < s.cfg.numAnalog) :
    analogBranch d s =
      emitEvents (analogWord s.pCh (joinData s.d0 d)) [.analogChanged s.pCh (joinData s.d0 d)]
        (setAna s.pCh (joinData s.d0 d) (finishCommand (consumeByte s))) := by
  have : outOfRange s.pCh s.cfg.numAnalog = false := by simpa [outOfRange] using h
  simp [analogBranch, this]

/-! ### The transport error -/

theorem transportError_halted {s : State} (h : s.mode = .halted) : transportError s = clearEvents s := by
  simp [transportError, h]

theorem transportError_running {s : State} (h : s.mode ≠ .halted) :
    transportError s = raiseFault .transport 0#4 (clearEvents s) := by
  simp [transportError, h]

/-! ### The accumulator -/

theorem accByte_below {s : State} {i : Nat} (h : i < s.cnt.toNat) : accByte s i = s.acc.read i := if_pos h

/-- What a stored body byte does to the entries that hold a meaning, while CNT does not wrap. -/
theorem accByte_pushBody {s : State} (b : Byte) (hm : s.acc.wf) (hc : s.cnt.toNat < 255) {i : Nat}
    (hi : i ≤ s.cnt.toNat) : accByte (pushBody b s) i = if i = s.cnt.toNat then b else accByte s i := by
  have hn : (s.cnt + 1#8).toNat = s.cnt.toNat + 1 := by
    rw [BitVec.toNat_add]
    simp only [BitVec.toNat_ofNat]
    omega
  rw [accByte_below (by rw [pushBody_cnt, hn]; omega), pushBody_acc]
  split
  · subst i
    exact Memory.read_write_same _ _ hm
  · rw [Memory.read_write_other _ hm ‹_›, accByte_below (by omega)]

/-! ### The I2C reply -/

@[simp] theorem replyPayload_length (s : State) : (replyPayload s).length = pairCount s - 2 := by simp [replyPayload]

theorem replyPayload_le_plMax {s : State} (h : s.cnt.toNat ≤ s.cfg.sysexCap) :
    (replyPayload s).length ≤ s.cfg.plMax := by
  simp only [replyPayload_length, pairCount, Config.plMax]
  omega

theorem replyPayload_length_lt (s : State) : (replyPayload s).length < 256 := by
  have := s.cnt.isLt
  simp only [replyPayload_length, pairCount]
  omega

/-- The latch gives back the payload it was written with. -/
theorem latchedPayload_latchReply (a r : Half) {p : List Byte} (s : State) (h : p.length < 256) :
    latchedPayload (latchReply a r p s) = p := by
  have hl : (BitVec.ofNat 8 p.length).toNat = p.length := by
    simp only [BitVec.toNat_ofNat]
    omega
  apply List.ext_getElem
  · simp [latchedPayload, hl]
  · intro j h1 h2
    simp only [latchedPayload, payloadByte, latchReply_i2cPl, latchReply_i2cLen, hl, List.getElem_map, List.getElem_range,
      if_pos h2]
    simpa using Memory.read_ofBytes p 0 j h2

/-- What an accepted reply leaves, and where it stops. -/
theorem emitReply_next {s t : State} :
    emitReply s = .next t ↔ (replyPayload s).length ≤ s.cfg.plMax ∧
      t = closeSysex (latchReply (pairValue s 0) (pairValue s 1) (replyPayload s)
        (emitEvents .i2c [.i2cReceived (pairValue s 0) (pairValue s 1) (replyPayload s)] (consumeByte s))) := by
  unfold emitReply
  split
  · simp only [reduceCtorEq, false_iff]
    omega
  · simp only [Host.Outcome.next.injEq]
    constructor
    · rintro rfl
      exact ⟨by omega, rfl⟩
    · rintro ⟨-, rfl⟩
      rfl

/-! ### Events -/

theorem maskEvents_length_le (ch : Channel) (mask bits : Byte) : (maskEvents ch mask bits).length ≤ 8 := by
  simpa [maskEvents] using List.length_filterMap_le
    (fun i => if mask.getLsbD i then some (Event.digitalChanged (pinNumber ch i) (bits.getLsbD i)) else none)
    (List.range 8)

@[simp] theorem maskEvents_zero (ch : Channel) (bits : Byte) : maskEvents ch 0#8 bits = [] := by
  simp [maskEvents]

end Sys2Proof.Machine
end

