-- ==== Sys2Proof/Laws/PerInstr.lean ====
section
/-! SUPPORT. Statements made of every instruction as syntax, one lemma per constructor. -/

namespace Sys2Proof.Laws.RowClass

/-- The classes of 30_encoding.md R70 that a row takes its bytes from. -/
def classes : Instr → List ByteClass
  | .firstData _ | .secondData _ | .digitalComplete _ | .analogComplete _ | .versionComplete _ | .dropDataByte _ => [.data]
  | .startDigital _ | .startAnalog _ | .startVersionNibble _
  | .dropNibble80 _ | .dropNibble90 _ | .dropNibbleA0 _ | .dropNibbleB0 _ | .dropNibbleC0 _ | .dropNibbleD0 _ | .dropNibbleE0 _ =>
    [.channel]
  | .startSysex => [.startSysex]
  | .startVersionFull | .dropSystemF1 | .dropSystemF2 | .dropSystemF3 | .dropSystemF4 | .dropSystemF5
  | .dropSystemF6 | .dropSystemF8 | .dropSystemF9 | .dropSystemFA | .dropSystemFB
  | .dropSystemFC | .dropSystemFD | .dropSystemFE | .dropSystemFF => [.system]
  | .dropSystemF7 | .finalize | .emitI2c => [.endSysex]
  | .append _ | .overflow _ => [.data, .channel, .startSysex, .system]
  | .ignoredHalted _ => [.data, .channel, .startSysex, .endSysex, .system]

/-- In every valid configuration in which the instruction exists, its byte has a class of its row. -/
def Statement (i : Instr) : Prop := ∀ c : Config, c.Valid → i.WellFormed c → classOf (encodeByte c i) ∈ classes i

theorem classOf_data : ∀ d : Data7, classOf (d.setWidth 8) = .data := by decide

theorem classOf_nibble_mem : ∀ op ∈ [0x80#8, 0x90#8, 0xA0#8, 0xB0#8, 0xC0#8, 0xD0#8, 0xE0#8], ∀ ch : Channel,
    classOf (op ||| ch.setWidth 8) = .channel := by decide

theorem nibble_mem : ∀ op : Byte, IsNibbleOpcode op → op ∈ [0x80#8, 0x90#8, 0xA0#8, 0xB0#8, 0xC0#8, 0xD0#8, 0xE0#8] := by decide

/-- A byte below 0xF0 that carries a channel behind an opcode nibble is a channel leading byte. -/
theorem classOf_nibble {op : Byte} (h : IsNibbleOpcode op) (ch : Channel) : classOf (op ||| ch.setWidth 8) = .channel :=
  classOf_nibble_mem op (nibble_mem op h) ch

theorem classOf_body : ∀ b : Byte, b ≠ endSysexByte → classOf b ∈ [ByteClass.data, .channel, .startSysex, .system] := by decide

theorem classOf_any : ∀ b : Byte, classOf b ∈ [ByteClass.data, .channel, .startSysex, .endSysex, .system] := by decide

theorem classOf_full : ∀ b : Byte, ¬ b < 0xF0#8 → b ≠ startSysexByte → b ≠ endSysexByte → classOf b = .system := by decide

theorem firstData (d : Data7) : Statement (.firstData d) := fun _ _ _ => List.mem_singleton.2 (classOf_data d)

theorem secondData (d : Data7) : Statement (.secondData d) := fun _ _ _ => List.mem_singleton.2 (classOf_data d)

theorem digitalComplete (d : Data7) : Statement (.digitalComplete d) := fun _ _ _ => List.mem_singleton.2 (classOf_data d)

theorem analogComplete (d : Data7) : Statement (.analogComplete d) := fun _ _ _ => List.mem_singleton.2 (classOf_data d)

theorem versionComplete (d : Data7) : Statement (.versionComplete d) := fun _ _ _ => List.mem_singleton.2 (classOf_data d)

theorem dropDataByte (d : Data7) : Statement (.dropDataByte d) := fun _ _ _ => List.mem_singleton.2 (classOf_data d)

theorem startDigital (ch : Channel) : Statement (.startDigital ch) :=
  fun _ h _ => List.mem_singleton.2 (classOf_nibble h.2.1.1 ch)

theorem startAnalog (ch : Channel) : Statement (.startAnalog ch) :=
  fun _ h _ => List.mem_singleton.2 (classOf_nibble h.2.1.2.1 ch)

theorem startVersionNibble (ch : Channel) : Statement (.startVersionNibble ch) := by
  intro c h hn
  have hv := h.2.2.1
  rw [if_pos hn] at hv
  exact List.mem_singleton.2 (classOf_nibble hv.1 ch)

theorem dropNibble80 (ch : Channel) : Statement (.dropNibble80 ch) :=
  fun _ _ _ => List.mem_singleton.2 (classOf_nibble (by decide) ch)

theorem dropNibble90 (ch : Channel) : Statement (.dropNibble90 ch) :=
  fun _ _ _ => List.mem_singleton.2 (classOf_nibble (by decide) ch)

theorem dropNibbleA0 (ch : Channel) : Statement (.dropNibbleA0 ch) :=
  fun _ _ _ => List.mem_singleton.2 (classOf_nibble (by decide) ch)

theorem dropNibbleB0 (ch : Channel) : Statement (.dropNibbleB0 ch) :=
  fun _ _ _ => List.mem_singleton.2 (classOf_nibble (by decide) ch)

theorem dropNibbleC0 (ch : Channel) : Statement (.dropNibbleC0 ch) :=
  fun _ _ _ => List.mem_singleton.2 (classOf_nibble (by decide) ch)

theorem dropNibbleD0 (ch : Channel) : Statement (.dropNibbleD0 ch) :=
  fun _ _ _ => List.mem_singleton.2 (classOf_nibble (by decide) ch)

theorem dropNibbleE0 (ch : Channel) : Statement (.dropNibbleE0 ch) :=
  fun _ _ _ => List.mem_singleton.2 (classOf_nibble (by decide) ch)

theorem startSysex : Statement .startSysex := fun _ _ _ => List.mem_singleton.2 rfl

theorem startVersionFull : Statement .startVersionFull := by
  intro c h hn
  have hv := h.2.2.1
  rw [if_neg hn] at hv
  exact List.mem_singleton.2 (classOf_full _ hn hv.1 hv.2)

theorem dropSystemF1 : Statement .dropSystemF1 := fun _ _ _ => List.mem_singleton.2 rfl

theorem dropSystemF2 : Statement .dropSystemF2 := fun _ _ _ => List.mem_singleton.2 rfl

theorem dropSystemF3 : Statement .dropSystemF3 := fun _ _ _ => List.mem_singleton.2 rfl

theorem dropSystemF4 : Statement .dropSystemF4 := fun _ _ _ => List.mem_singleton.2 rfl

theorem dropSystemF5 : Statement .dropSystemF5 := fun _ _ _ => List.mem_singleton.2 rfl

theorem dropSystemF6 : Statement .dropSystemF6 := fun _ _ _ => List.mem_singleton.2 rfl

theorem dropSystemF7 : Statement .dropSystemF7 := fun _ _ _ => List.mem_singleton.2 rfl

theorem dropSystemF8 : Statement .dropSystemF8 := fun _ _ _ => List.mem_singleton.2 rfl

theorem dropSystemF9 : Statement .dropSystemF9 := fun _ _ _ => List.mem_singleton.2 rfl

theorem dropSystemFA : Statement .dropSystemFA := fun _ _ _ => List.mem_singleton.2 rfl

theorem dropSystemFB : Statement .dropSystemFB := fun _ _ _ => List.mem_singleton.2 rfl

theorem dropSystemFC : Statement .dropSystemFC := fun _ _ _ => List.mem_singleton.2 rfl

theorem dropSystemFD : Statement .dropSystemFD := fun _ _ _ => List.mem_singleton.2 rfl

theorem dropSystemFE : Statement .dropSystemFE := fun _ _ _ => List.mem_singleton.2 rfl

theorem dropSystemFF : Statement .dropSystemFF := fun _ _ _ => List.mem_singleton.2 rfl

theorem append (b : Byte) : Statement (.append b) := fun _ _ h => classOf_body b h

theorem overflow (b : Byte) : Statement (.overflow b) := fun _ _ h => classOf_body b h

theorem finalize : Statement .finalize := fun _ _ _ => List.mem_singleton.2 rfl

theorem emitI2c : Statement .emitI2c := fun _ _ _ => List.mem_singleton.2 rfl

theorem ignoredHalted (b : Byte) : Statement (.ignoredHalted b) := fun _ _ _ => classOf_any b

end Sys2Proof.Laws.RowClass
end

