-- ==== Sys2Proof/Laws/Step.lean ====
section
/-! SUPPORT. What one edge can do: the step taken apart once, so that no later proof unfolds it. -/

namespace Sys2Proof.Machine

/-- A step is the step on the input the ports name, and then the next values on the ports. -/
theorem step_next {s t : State} :
    step s = .next t ↔ ∃ u, stepOn (inputOf (pinsNow s)) s = .next u ∧ t = nextEdge u := by
  unfold step
  cases h : stepOn (inputOf (pinsNow s)) s with
  | next u => simp [eq_comm]
  | fault f => simp
  | refused r => simp

/-- The ways a byte offered in `s` can act: one per arm of the dispatch of 30_encoding.md R80, with what is known of the state and the
byte there. -/
inductive ByteEffect (b : Byte) (s : State) : State → Prop where
  | ignored (hm : s.mode = .halted) : ByteEffect b s (clearEvents s)
  | append (hm : s.mode = .sysex) (hb : b ≠ endSysexByte) (hc : s.cnt.toNat < s.cfg.sysexCap) :
      ByteEffect b s (pushBody b (consumeByte s))
  | overflow (hm : s.mode = .sysex) (hb : b ≠ endSysexByte) (hc : s.cnt.toNat = s.cfg.sysexCap) :
      ByteEffect b s (closeSysex (consumeByte s))
  | discard (hm : s.mode = .sysex) (hb : b = endSysexByte) (hv : replyValid s = false) :
      ByteEffect b s (closeSysex (consumeByte s))
  | reply (hm : s.mode = .sysex) (hb : b = endSysexByte) (hv : replyValid s = true)
      (hl : (replyPayload s).length ≤ s.cfg.plMax) :
      ByteEffect b s (closeSysex (latchReply (pairValue s 0) (pairValue s 1) (replyPayload s)
        (emitEvents .i2c [.i2cReceived (pairValue s 0) (pairValue s 1) (replyPayload s)] (consumeByte s))))
  | first (hm : s.mode = .await) (hb : b < 0x80#8) (hr : s.rem = 2#2) :
      ByteEffect b s (storeFirst (dataOf b) (consumeByte s))
  | digital (hm : s.mode = .await) (hb : b < 0x80#8) (hr : s.rem ≠ 2#2) (ho : s.pOp = s.cfg.opDigital) :
      ByteEffect b s (digitalBranch (dataOf b) s)
  | analog (hm : s.mode = .await) (hb : b < 0x80#8) (hr : s.rem ≠ 2#2) (hd : s.pOp ≠ s.cfg.opDigital)
      (ho : s.pOp = s.cfg.opAnalog) : ByteEffect b s (analogBranch (dataOf b) s)
  | version (hm : s.mode = .await) (hb : b < 0x80#8) (hr : s.rem ≠ 2#2) (hd : s.pOp ≠ s.cfg.opDigital)
      (ha : s.pOp ≠ s.cfg.opAnalog) (ho : s.pOp = s.cfg.opVersion) : ByteEffect b s (versionBranch (dataOf b) s)
  | noTarget (hm : s.mode = .await) (hb : b < 0x80#8) (hr : s.rem ≠ 2#2) (hd : s.pOp ≠ s.cfg.opDigital)
      (ha : s.pOp ≠ s.cfg.opAnalog) (hv : s.pOp ≠ s.cfg.opVersion) : ByteEffect b s (finishCommand (consumeByte s))
  | start (hm : s.mode = .idle ∨ s.mode = .await ∧ ¬ b < 0x80#8) (op : Byte) (ch : Channel)
      (ho : op = s.cfg.opDigital ∨ op = s.cfg.opAnalog ∨ op = s.cfg.opVersion) :
      ByteEffect b s (startCommand op ch (consumeByte s))
  | openSysex (hm : s.mode = .idle ∨ s.mode = .await ∧ ¬ b < 0x80#8) (hb : 0xF0#8 ≤ b) :
      ByteEffect b s (openSysex (consumeByte s))
  | drop (hm : s.mode = .idle ∨ s.mode = .await ∧ ¬ b < 0x80#8) : ByteEffect b s (consumeByte s)

/-- Every byte that starts nothing below 0xF0 is dropped. -/
theorem exec_dropChannelByte (b : Byte) (s : State) : exec (dropChannelByte b) s = .next (consumeByte s) := by
  unfold dropChannelByte
  split_ifs <;> rfl

/-- The rows of a low nibble from 0xF0 on. -/
theorem systemByte_cases : ∀ low : BitVec 4, if low = 0#4 then systemByte low = .startSysex else
    systemByte low ∈ [.dropSystemF1, .dropSystemF2, .dropSystemF3, .dropSystemF4, .dropSystemF5, .dropSystemF6, .dropSystemF7,
      .dropSystemF8, .dropSystemF9, .dropSystemFA, .dropSystemFB, .dropSystemFC, .dropSystemFD, .dropSystemFE, .dropSystemFF] := by
  decide

/-- A byte from 0xF0 on opens a sysex or is dropped. -/
theorem exec_systemByte (low : BitVec 4) (s : State) :
    exec (systemByte low) s = .next (if low = 0#4 then openSysex (consumeByte s) else consumeByte s) := by
  have h := systemByte_cases low
  split_ifs at h ⊢ with h0
  · rw [h]
    rfl
  · generalize systemByte low = i at h
    fin_cases h <;> rfl

/-- What a leading byte does (42_leading_bytes.md R160). -/
theorem exec_leadingByte {b : Byte} {s t : State} (hm : s.mode = .idle ∨ s.mode = .await ∧ ¬ b < 0x80#8)
    (h : exec (leadingByte s.cfg b) s = .next t) : ByteEffect b s t := by
  unfold leadingByte at h
  split_ifs at h with h1 h2 h3 h4 h5 h6
  · cases h
    exact .start hm _ _ (.inl rfl)
  · cases h
    exact .start hm _ _ (.inr (.inl rfl))
  · cases h
    exact .start hm _ _ (.inr (.inr rfl))
  · rw [exec_dropChannelByte] at h
    cases h
    exact .drop hm
  · cases h
    exact .openSysex hm (by simpa using h1)
  · cases h
    exact .start hm _ _ (.inr (.inr rfl))
  · rw [exec_systemByte] at h
    cases h
    split
    · exact .openSysex hm (by simpa using h1)
    · exact .drop hm

/-- What a byte does in any state: the whole of the dispatch. -/
theorem exec_readByte {b : Byte} {s t : State} (h : exec (readByte b s) s = .next t) : ByteEffect b s t := by
  unfold readByte decodeByte at h
  cases hm : s.mode with
  | halted =>
    simp only [decodeCtx, hm] at h
    cases h
    exact .ignored hm
  | sysex =>
    simp only [decodeCtx, hm, sysexByte] at h
    split_ifs at h with h1 h2 h3
    · obtain ⟨hl, rfl⟩ := emitReply_next.1 h
      exact .reply hm h1 h2 hl
    · simp only [exec, execFinalize, h2] at h
      cases h
      exact .discard hm h1 (by simpa using h2)
    · cases h
      exact .overflow hm h1 h3
    · simp only [exec, execAppend] at h
      split_ifs at h with h4
      cases h
      exact .append hm h1 h4
  | await =>
    simp only [decodeCtx, hm] at h
    split at h
    · rename_i hb
      simp only [awaitDataByte] at h
      split_ifs at h with h1 h2 h3 h4
      · cases h
        exact .first hm hb h1
      · cases h
        exact .digital hm hb h1 h2
      · cases h
        exact .analog hm hb h1 h2 h3
      · cases h
        exact .version hm hb h1 h2 h3 h4
      · simp only [exec, execSecondData, h2, h3, h4, if_false] at h
        cases h
        exact .noTarget hm hb h1 h2 h3 h4
    · exact exec_leadingByte (.inr ⟨hm, ‹_›⟩) h
  | idle =>
    simp only [decodeCtx, hm] at h
    exact exec_leadingByte (.inl hm) h

/-- What a step can do, by its input. -/
theorem stepOn_next {i : Input} {s u : State} (h : stepOn i s = .next u) :
    (∃ t0, i = .reset t0 ∧ u = resetStep t0 s) ∨ (i = .transportError ∧ u = transportError s) ∨
      (∃ b, i = .byte b ∧ ByteEffect b s u) ∨ (i = .quiet ∧ u = clearEvents s) := by
  cases i with
  | reset t0 =>
    cases h
    exact .inl ⟨t0, rfl, rfl⟩
  | transportError =>
    cases h
    exact .inr (.inl ⟨rfl, rfl⟩)
  | byte b => exact .inr (.inr (.inl ⟨b, rfl, exec_readByte h⟩))
  | quiet =>
    cases h
    exact .inr (.inr (.inr ⟨rfl, rfl⟩))

/-- Where a step on a stream starts: the first byte acts, and the rest is offered at the edges after it. -/
theorem step_offerStream (b : Byte) (t : Nat) (bs : List (Byte × Nat)) (s : State) :
    step (offerStream ((b, t) :: bs) s) =
      match exec (readByte b (offerStream ((b, t) :: bs) s)) (offerStream ((b, t) :: bs) s) with
      | .next u => .next (nextEdge u)
      | .fault f => .fault f
      | .refused r => .refused r := rfl

end Sys2Proof.Machine
end

