-- ==== Sys2Proof/Laws/Run.lean ====
section
/-! SUPPORT. Runs over a stream of bytes (70_reset_and_hazards.md R245): one byte at a time, and one run after another. -/

namespace Sys2Proof.Machine

/-- No branch of the multiplexer touches the edges to come or the counter for free values. -/
theorem digitalBranch_carried (d : Data7) (s : State) :
    (digitalBranch d s).inputs = s.inputs ∧ (digitalBranch d s).draw = s.draw := by
  unfold digitalBranch
  split_ifs <;> exact ⟨rfl, rfl⟩

theorem analogBranch_carried (d : Data7) (s : State) :
    (analogBranch d s).inputs = s.inputs ∧ (analogBranch d s).draw = s.draw := by
  unfold analogBranch
  split_ifs <;> exact ⟨rfl, rfl⟩

/-- No byte touches the edges to come or the counter for free values. -/
theorem ByteEffect.carried {b : Byte} {s t : State} (h : ByteEffect b s t) : t.inputs = s.inputs ∧ t.draw = s.draw := by
  cases h with
  | digital => exact digitalBranch_carried _ _
  | analog => exact analogBranch_carried _ _
  | _ => simp [versionBranch]

/-- The state the rest of a stream is offered to, after a byte that leaves `u`. -/
def afterByte (s u : State) : State := { u with inputs := s.inputs, draw := s.draw + 1 }

/-- A run over a stream is its first byte and then the run over the rest. -/
theorem runEdges_cons {b : Byte} {t k : Nat} {bs : List (Byte × Nat)} {s u : State}
    (h : exec (readByte b (offerStream ((b, t) :: bs) s)) (offerStream ((b, t) :: bs) s) = .next u) :
    runEdges (k + 1) (offerStream ((b, t) :: bs) s) =
      (runEdges k (offerStream bs (afterByte s u))).map (fun r => (r.1, u.events ++ r.2)) := by
  obtain ⟨hi, hd⟩ := (exec_readByte h).carried
  have hn : nextEdge u = offerStream bs (afterByte s u) := by
    simp only [nextEdge, hi, hd]
    rfl
  rw [runEdges, step_offerStream, h, ← hn]
  rfl

/-- A run of `m + n` edges is a run of `m` and then one of `n`. -/
theorem runEdges_add (m n : Nat) (s : State) :
    runEdges (m + n) s = (runEdges m s).bind (fun r => (runEdges n r.1).map (fun q => (q.1, r.2 ++ q.2))) := by
  induction m generalizing s with
  | zero => simp [runEdges]
  | succ m ih =>
    rw [Nat.succ_add, runEdges, runEdges]
    cases h : step s with
    | next t =>
      simp only [ih, Option.map_bind, Option.bind_map]
      congr 1
      funext r
      simp [Function.comp_def, List.append_assoc]
    | fault f => rfl
    | refused r => rfl

end Sys2Proof.Machine
end

