-- ==== Sys2Proof/Laws/Stream.lean ====
section
/-! SUPPORT. Whole parts of a stream: opening a sysex, its body bytes, bytes dropped in IDLE, and the value pairs of a reply frame. -/

namespace Sys2Proof.Machine

/-! ### Bytes and opcodes -/

theorem isNibbleOpcode_mem {op : Byte} (h : IsNibbleOpcode op) : op ∈ [0x80#8, 0x90#8, 0xA0#8, 0xB0#8, 0xC0#8, 0xD0#8, 0xE0#8] := by
  revert op
  decide

set_option maxRecDepth 10000 in
theorem opcode_channel_mem : ∀ op ∈ [0x80#8, 0x90#8, 0xA0#8, 0xB0#8, 0xC0#8, 0xD0#8, 0xE0#8], ∀ ch : Channel,
    (op ||| ch.setWidth 8) < 0xF0#8 ∧ ¬ (op ||| ch.setWidth 8) < 0x80#8 ∧ opcodeOf (op ||| ch.setWidth 8) = op ∧
      channelOf (op ||| ch.setWidth 8) = ch := by
  decide

/-- The fields of a channel leading byte (30_encoding.md R71). -/
theorem isNibbleOpcode_fields {op : Byte} (h : IsNibbleOpcode op) (ch : Channel) :
    (op ||| ch.setWidth 8) < 0xF0#8 ∧ ¬ (op ||| ch.setWidth 8) < 0x80#8 ∧ opcodeOf (op ||| ch.setWidth 8) = op ∧
      channelOf (op ||| ch.setWidth 8) = ch :=
  opcode_channel_mem op (isNibbleOpcode_mem h) ch

/-- The three opcodes of a valid configuration differ. -/
theorem opcodes_ne {c : Config} (h : c.Valid) :
    c.opAnalog ≠ c.opDigital ∧ c.opVersion ≠ c.opDigital ∧ c.opVersion ≠ c.opAnalog := by
  obtain ⟨-, ⟨hd, ha, hne⟩, hv, -⟩ := h
  refine ⟨hne.symm, ?_⟩
  split at hv
  · exact hv.2
  · rename_i hn
    have hd2 := hd.2.2
    have ha2 := ha.2.2
    constructor <;> intro e <;> simp only [Config.nibbleVersion, e] at hn <;> bv_omega

theorem opcodeOf_data : ∀ b : Byte, b < 0x80#8 → opcodeOf b < 0x80#8 ∧ b < 0xF0#8 := by decide

/-- A data byte in IDLE starts nothing (42_leading_bytes.md R162). -/
theorem leadingByte_data {c : Config} (hv : c.Valid) {b : Byte} (hb : b < 0x80#8) : leadingByte c b = dropChannelByte b := by
  obtain ⟨ho, hlt⟩ := opcodeOf_data b hb
  have hne : ∀ op, IsNibbleOpcode op → opcodeOf b ≠ op := by
    intro op h e
    have := h.2.1
    rw [e] at ho
    bv_omega
  unfold leadingByte
  rw [if_pos hlt, if_neg (hne _ hv.2.1.1), if_neg (hne _ hv.2.1.2.1), if_neg]
  rintro ⟨hn, he⟩
  have hver := hv.2.2.1
  rw [if_pos hn] at hver
  exact hne _ hver.1 he

/-! ### What a part of a stream leaves alone -/

/-- The register files, the version, the fault cause, the latch and the configuration are the same. -/
structure SameFiles (s t : State) : Prop where
  cfg : t.cfg = s.cfg
  port : t.port = s.port
  ana : t.ana = s.ana
  verMajor : t.verMajor = s.verMajor
  verMinor : t.verMinor = s.verMinor
  fault : t.fault = s.fault
  i2cAddr : t.i2cAddr = s.i2cAddr
  i2cReg : t.i2cReg = s.i2cReg
  i2cLen : t.i2cLen = s.i2cLen
  i2cPl : t.i2cPl = s.i2cPl

theorem SameFiles.trans {s t u : State} (h : SameFiles s t) (k : SameFiles t u) : SameFiles s u := by
  cases h
  cases k
  constructor <;> simp_all

/-- A run whose first byte emits nothing is the run over the rest. -/
theorem runEdges_cons_silent {b : Byte} {t k : Nat} {bs : List (Byte × Nat)} {s u : State}
    (h : exec (readByte b (offerStream ((b, t) :: bs) s)) (offerStream ((b, t) :: bs) s) = .next u) (he : u.events = []) :
    runEdges (k + 1) (offerStream ((b, t) :: bs) s) = runEdges k (offerStream bs (afterByte s u)) := by
  rw [runEdges_cons h, he]
  simp

/-! ### A sysex -/

/-- The timed bytes of a sysex frame: the opener, the body, the closer. -/
theorem timed_sysexFrame {bs : List (Byte × Nat)} {body : List Byte} (h : bs.map Prod.fst = sysexFrame body) :
    ∃ t0 bb t1, bs = (0xF0#8, t0) :: (bb ++ [(0xF7#8, t1)]) ∧ bb.map Prod.fst = body := by
  simp only [sysexFrame] at h
  obtain ⟨⟨a, t0⟩, l, rfl⟩ : ∃ x l, bs = x :: l := by cases bs <;> simp_all
  simp only [List.map_cons, List.cons_append, List.cons.injEq] at h
  obtain ⟨rfl, h⟩ := h
  obtain ⟨l1, l2, rfl, h1, h2⟩ := List.map_eq_append_iff.1 h
  obtain ⟨⟨c, t1⟩, rfl⟩ : ∃ y, l2 = [y] := by rcases l2 with _ | ⟨y, _ | _⟩ <;> simp_all
  simp only [List.map_cons, List.map_nil, List.cons.injEq, and_true] at h2
  exact ⟨t0, l1, t1, by rw [h2], h1⟩

/-- 0xF0 in IDLE opens a sysex with an empty accumulator. -/
theorem run_startSysex {s : State} {t0 k : Nat} {rest : List (Byte × Nat)} (hm : s.mode = .idle) :
    ∃ u, runEdges (k + 1) (offerStream ((0xF0#8, t0) :: rest) s) = runEdges k (offerStream rest u) ∧ SameFiles s u ∧
      u.mode = .sysex ∧ u.cnt.toNat = 0 ∧ u.acc = [] := by
  have r : readByte 0xF0#8 (offerStream ((0xF0#8, t0) :: rest) s) = .startSysex := by
    simp only [readByte, decodeByte, decodeCtx, offerStream_mode, hm, leadingByte]
    rfl
  have e : exec (readByte 0xF0#8 (offerStream ((0xF0#8, t0) :: rest) s)) (offerStream ((0xF0#8, t0) :: rest) s) =
      .next (openSysex (consumeByte (offerStream ((0xF0#8, t0) :: rest) s))) := by
    rw [r]
    rfl
  refine ⟨_, runEdges_cons_silent e (by simp), ?_, ?_, ?_, ?_⟩
  · constructor <;> simp [afterByte]
  all_goals simp [afterByte]

/-- Body bytes that fit are stored behind those already there. -/
theorem run_body (body : List Byte) (bs rest : List (Byte × Nat)) (k : Nat) (s : State) (hb : bs.map Prod.fst = body)
    (hv : s.cfg.Valid) (hm : s.mode = .sysex) (hw : Memory.wf s.acc) (hne : ∀ b ∈ body, b ≠ 0xF7#8)
    (hc : s.cnt.toNat + body.length ≤ s.cfg.sysexCap) :
    ∃ u, runEdges (body.length + k) (offerStream (bs ++ rest) s) = runEdges k (offerStream rest u) ∧ SameFiles s u ∧
      u.mode = .sysex ∧ Memory.wf u.acc ∧ u.cnt.toNat = s.cnt.toNat + body.length ∧
      (∀ i, i < s.cnt.toNat → accByte u i = accByte s i) ∧
      ∀ i (h : i < body.length), accByte u (s.cnt.toNat + i) = body[i] := by
  induction body generalizing bs s with
  | nil =>
    have : bs = [] := by simpa using hb
    subst this
    exact ⟨s, by simp, by constructor <;> rfl, hm, hw, by simp, fun _ _ => rfl, by simp⟩
  | cons b body ih =>
    obtain ⟨⟨a, t⟩, bs, rfl⟩ : ∃ x l, bs = x :: l := by cases bs <;> simp_all
    simp only [List.map_cons, List.cons.injEq] at hb
    obtain ⟨rfl, hb⟩ := hb
    have hcap : s.cfg.sysexCap ≤ 255 := hv.1.2.2
    simp only [List.length_cons] at hc
    have hlt : s.cnt.toNat < s.cfg.sysexCap := by omega
    have ha : a ≠ endSysexByte := hne a (by simp)
    have r : readByte a (offerStream ((a, t) :: (bs ++ rest)) s) = .append a := by
      simp only [readByte, decodeByte, decodeCtx, offerStream_mode, hm, sysexByte, if_neg ha, offerStream_cnt, offerStream_cfg,
        if_neg (by omega : ¬ s.cnt.toNat = s.cfg.sysexCap)]
    have e : exec (readByte a (offerStream ((a, t) :: (bs ++ rest)) s)) (offerStream ((a, t) :: (bs ++ rest)) s) =
        .next (pushBody a (consumeByte (offerStream ((a, t) :: (bs ++ rest)) s))) := by
      rw [r]
      exact if_pos hlt
    have hrun := runEdges_cons_silent (k := body.length + k) e (by simp)
    generalize hu : afterByte s (pushBody a (consumeByte (offerStream ((a, t) :: (bs ++ rest)) s))) = u1 at hrun
    have hcnt : u1.cnt.toNat = s.cnt.toNat + 1 := by
      rw [← hu]
      simp only [afterByte, pushBody_cnt, consumeByte_cnt, offerStream_cnt, BitVec.toNat_add, BitVec.toNat_ofNat]
      omega
    have hacc : u1.acc = s.acc.write s.cnt.toNat a := by
      rw [← hu]
      simp [afterByte]
    have hsame : SameFiles s u1 := by
      rw [← hu]
      constructor <;> simp [afterByte]
    have hbyte : ∀ i, i ≤ s.cnt.toNat → accByte u1 i = if i = s.cnt.toNat then a else accByte s i := by
      intro i hi
      rw [accByte_below (by omega), hacc]
      split
      · subst i
        exact Memory.read_write_same _ _ hw
      · rw [Memory.read_write_other _ hw ‹_›, accByte_below (by omega)]
    obtain ⟨u, h1, h2, h3, h4, h5, h6, h7⟩ := ih bs u1 hb (by rw [hsame.cfg]; exact hv) (by rw [← hu]; simpa [afterByte] using hm)
      (by rw [hacc]; exact Memory.write_wf _ _ hw) (fun b hb => hne b (List.mem_cons_of_mem _ hb))
      (by rw [hsame.cfg]; omega)
    refine ⟨u, ?_, hsame.trans h2, h3, h4, ?_, ?_, ?_⟩
    · rw [List.length_cons, Nat.add_right_comm, List.cons_append, hrun, h1]
    · rw [h5, hcnt, List.length_cons]
      omega
    · intro i hi
      rw [h6 i (by omega), hbyte i (by omega), if_neg (by omega)]
    · intro i hi
      rcases i with _ | i
      · rw [Nat.add_zero, h6 _ (by omega), hbyte _ (le_refl _), if_pos rfl]
        rfl
      · have := h7 i (by simpa using hi)
        rw [hcnt] at this
        rw [show s.cnt.toNat + (i + 1) = s.cnt.toNat + 1 + i by omega, this]
        rfl

/-- Data bytes in IDLE are dropped. -/
theorem run_dropped (body : List Byte) (bs rest : List (Byte × Nat)) (k : Nat) (s : State) (hb : bs.map Prod.fst = body)
    (hv : s.cfg.Valid) (hm : s.mode = .idle) (hlt : ∀ b ∈ body, b < 0x80#8) :
    ∃ u, runEdges (body.length + k) (offerStream (bs ++ rest) s) = runEdges k (offerStream rest u) ∧ SameFiles s u ∧
      u.mode = .idle ∧ u.cnt = s.cnt := by
  induction body generalizing bs s with
  | nil =>
    have : bs = [] := by simpa using hb
    subst this
    exact ⟨s, by simp, by constructor <;> rfl, hm, rfl⟩
  | cons b body ih =>
    obtain ⟨⟨a, t⟩, bs, rfl⟩ : ∃ x l, bs = x :: l := by cases bs <;> simp_all
    simp only [List.map_cons, List.cons.injEq] at hb
    obtain ⟨rfl, hb⟩ := hb
    have r : readByte a (offerStream ((a, t) :: (bs ++ rest)) s) = dropChannelByte a := by
      simp only [readByte, decodeByte, decodeCtx, offerStream_mode, hm, offerStream_cfg, leadingByte_data hv (hlt a (by simp))]
    have e : exec (readByte a (offerStream ((a, t) :: (bs ++ rest)) s)) (offerStream ((a, t) :: (bs ++ rest)) s) =
        .next (consumeByte (offerStream ((a, t) :: (bs ++ rest)) s)) := by
      rw [r, exec_dropChannelByte]
    have hrun := runEdges_cons_silent (k := body.length + k) e (by simp)
    obtain ⟨u, h1, h2, h3, h4⟩ := ih bs (afterByte s (consumeByte (offerStream ((a, t) :: (bs ++ rest)) s))) hb
      (by simpa [afterByte] using hv) (by simpa [afterByte] using hm) (fun b hb => hlt b (List.mem_cons_of_mem _ hb))
    refine ⟨u, ?_, ?_, h3, ?_⟩
    · rw [List.length_cons, Nat.add_right_comm, List.cons_append, hrun, h1]
    · refine SameFiles.trans ?_ h2
      constructor <;> simp [afterByte]
    · rw [h4]
      rfl

/-! ### The value pairs of a reply -/

theorem groups_lt (v : BitVec 14) : lowGroup v < 0x80#8 ∧ highGroup v < 0x80#8 := by
  constructor <;> simp [lowGroup, highGroup, BitVec.lt_def] <;> omega

@[simp] theorem pairBytes_length (vs : List (BitVec 14)) : (pairBytes vs).length = 2 * vs.length := by
  induction vs with
  | nil => rfl
  | cons v vs ih =>
    simp only [pairBytes, List.length_cons, ih]
    omega

theorem pairBytes_lt (vs : List (BitVec 14)) : ∀ b ∈ pairBytes vs, b < 0x80#8 := by
  induction vs with
  | nil => simp [pairBytes]
  | cons v vs ih =>
    intro b hb
    simp only [pairBytes, List.mem_cons] at hb
    rcases hb with rfl | rfl | hb
    · exact (groups_lt v).1
    · exact (groups_lt v).2
    · exact ih b hb

theorem pairBytes_get (vs : List (BitVec 14)) (k : Nat) (h : k < vs.length) :
    (pairBytes vs)[2 * k]'(by simp; omega) = lowGroup vs[k] ∧ (pairBytes vs)[2 * k + 1]'(by simp; omega) = highGroup vs[k] := by
  induction vs generalizing k with
  | nil => simp at h
  | cons v vs ih =>
    rcases k with _ | k
    · exact ⟨rfl, rfl⟩
    · simpa [pairBytes, Nat.mul_add] using ih k (by simpa using h)

/-- The two groups of a value give it back (20_memory.md R50). -/
theorem joinBytes_groups (v : BitVec 14) : joinBytes (lowGroup v) (highGroup v) = v.setWidth 16 := by
  simp only [joinBytes, lowGroup, highGroup]
  ext i hi
  simp only [BitVec.getElem_or, BitVec.getElem_setWidth, BitVec.getElem_shiftLeft, BitVec.getLsbD_setWidth,
    BitVec.getLsbD_extractLsb']
  by_cases h7 : i < 7
  · simp [h7]
    omega
  · simp only [h7, decide_false, Bool.false_and, Bool.and_false, Bool.false_or]
    by_cases h14 : i < 14
    · simp [show i - 7 < 7 by omega, show 7 + (i - 7) = i by omega, show i - 7 < 8 by omega]
    · simp [show ¬ i - 7 < 7 by omega, BitVec.getLsbD_of_ge v i (by omega)]

end Sys2Proof.Machine
end

