-- ==== Sys2Proof/Tests/Slice0.lean ====
section
/-! SUPPORT. Tests: ill-formed instructions, words of every row, single steps with the results of spec/95_test_vectors.md, and a witness
for the hypotheses of every statement. -/

namespace Sys2Proof.Tests

open Sys2Proof.Machine

/-! ### Helpers -/

/-- The reference configuration with another version opcode. -/
def withVersion (op : Byte) : Config := { Config.reference with opVersion := op }

/-- The reference configuration with another digital opcode. -/
def withDigital (op : Byte) : Config := { Config.reference with opDigital := op }

/-- A board of 2 ports and 6 analog channels (vectors T-FLT-1, T-FLT-2). -/
def smallBoard : Config := { Config.reference with numPorts := 2, numAnalog := 6 }

/-- The reference opcodes moved to 0xA0, 0xB0 and, in nibble form, 0xC0. -/
def movedOpcodes : Config := { Config.reference with opDigital := 0xA0#8, opAnalog := 0xB0#8, opVersion := 0xC0#8 }

/-- AWAIT with a pending command, everything else as reset leaves it. -/
def awaiting (c : Config) (op : Byte) (ch : Channel) (rem : BitVec 2) (d0 : Data7) : State :=
  { State.resetAt c 0 with mode := .await, pOp := op, pCh := ch, rem := rem, d0 := d0 }

/-- SYSEX with a body, everything else as reset leaves it. -/
def inSysex (body : List Byte) : State :=
  { State.reset with mode := .sysex, cnt := BitVec.ofNat 8 body.length, acc := Memory.ofBytes 0 body }

/-- SYSEX with `n` body bytes: the first as given, the others 0 (vectors T-SYX-3, T-SYX-4). -/
def inLongSysex (first : Byte) (n : Nat) : State := { inSysex [first] with cnt := BitVec.ofNat 8 n }

/-- HALTED by a transport error. -/
def halted : State := { State.reset with mode := .halted, fault := .transport }

/-- A byte offered at time 3. -/
def offered (b : Byte) (s : State) : State := offerStream [(b, 3)] s

/-- The ports `p` at the next edge. -/
def withPins (p : Pins) (s : State) : State := { s with inputs := [p] }

/-- The outcome is a next state in which `p` holds. -/
def after (o : Host.Outcome State Machine.Fault Refusal) (p : State → Bool) : Bool :=
  match o with
  | .next t => p t
  | _ => false

/-- The decoder context of a mode. -/
def ctx (mode : Mode) (rem : BitVec 2) (pOp : Byte) (cnt : BitVec 8) (reply : Bool) : DecodeCtx :=
  { mode := mode, rem := rem, pOp := pOp, cnt := cnt, reply := reply }

/-! ### Ill-formed instructions are refused -/

theorem test_illFormed_versionForms : ¬ (Instr.startVersionNibble 0#4).WellFormed Config.reference ∧
    ¬ Instr.startVersionFull.WellFormed (withVersion 0xA0#8) := by decide

theorem test_illFormed_dropNibbles : ¬ (Instr.dropNibble80 0#4).WellFormed (withDigital 0x80#8) ∧
    ¬ (Instr.dropNibble90 1#4).WellFormed Config.reference ∧ ¬ (Instr.dropNibbleA0 2#4).WellFormed (withDigital 0xA0#8) ∧
    ¬ (Instr.dropNibbleB0 3#4).WellFormed (withVersion 0xB0#8) ∧ ¬ (Instr.dropNibbleC0 4#4).WellFormed (withVersion 0xC0#8) ∧
    ¬ (Instr.dropNibbleD0 5#4).WellFormed (withDigital 0xD0#8) ∧ ¬ (Instr.dropNibbleE0 6#4).WellFormed Config.reference := by decide

theorem test_illFormed_dropSystemLow :
    ¬ Instr.dropSystemF1.WellFormed (withVersion 0xF1#8) ∧ ¬ Instr.dropSystemF2.WellFormed (withVersion 0xF2#8) ∧
    ¬ Instr.dropSystemF3.WellFormed (withVersion 0xF3#8) ∧ ¬ Instr.dropSystemF4.WellFormed (withVersion 0xF4#8) ∧
    ¬ Instr.dropSystemF5.WellFormed (withVersion 0xF5#8) ∧ ¬ Instr.dropSystemF6.WellFormed (withVersion 0xF6#8) ∧
    ¬ Instr.dropSystemF7.WellFormed (withVersion 0xF7#8) ∧ ¬ Instr.dropSystemF8.WellFormed (withVersion 0xF8#8) := by
  decide

theorem test_illFormed_dropSystemHigh :
    ¬ Instr.dropSystemF9.WellFormed (withVersion 0xF9#8) ∧ ¬ Instr.dropSystemFA.WellFormed (withVersion 0xFA#8) ∧
    ¬ Instr.dropSystemFB.WellFormed (withVersion 0xFB#8) ∧ ¬ Instr.dropSystemFC.WellFormed (withVersion 0xFC#8) ∧
    ¬ Instr.dropSystemFD.WellFormed (withVersion 0xFD#8) ∧ ¬ Instr.dropSystemFE.WellFormed (withVersion 0xFE#8) ∧
    ¬ Instr.dropSystemFF.WellFormed (withVersion 0xFF#8) := by
  decide

theorem test_illFormed_bodyBytes : ¬ (Instr.append 0xF7#8).WellFormed Config.reference ∧
    ¬ (Instr.overflow 0xF7#8).WellFormed Config.reference := by decide

theorem test_valid_configurations : ∀ c ∈ [Config.reference, movedOpcodes, smallBoard, withVersion 0xA0#8], c.Valid := by decide

/-- The constraints of 00_scope.md R5 to R10, each broken once. -/
theorem test_invalid_configurations : ∀ c ∈ [{ Config.reference with sysexCap := 4 }, { Config.reference with sysexCap := 256 },
    { Config.reference with replyMin := 3 }, withDigital 0xE0#8, withDigital 0x93#8, withDigital 0x70#8, withVersion 0x90#8,
    withVersion 0xF0#8, withVersion 0xF7#8, { Config.reference with numPorts := 17 }, { Config.reference with numAnalog := 0 }],
    ¬ c.Valid := by decide

/-! ### Decoding: words written out from 30_encoding.md R70, R71, R83 -/

theorem test_decode_dataBytes :
    decode Config.reference (ctx .await 2#2 0x90#8 0#8 false) [0b00000101#8] = .ok (.firstData 5#7, []) ∧
    decode Config.reference (ctx .await 1#2 0x90#8 0#8 false) [0b01111111#8] = .ok (.digitalComplete 0x7F#7, []) ∧
    decode Config.reference (ctx .await 1#2 0xE0#8 0#8 false) [0b00000010#8] = .ok (.analogComplete 2#7, []) ∧
    decode Config.reference (ctx .await 1#2 0xF9#8 0#8 false) [0b00000101#8] = .ok (.versionComplete 5#7, []) ∧
    decode Config.reference (ctx .await 1#2 0x00#8 0#8 false) [0b00000101#8] = .ok (.secondData 5#7, []) ∧
    decode Config.reference resetCtx [0b00000001#8, 0xFF#8] = .ok (.dropDataByte 1#7, [0xFF#8]) := by decide

theorem test_decode_channelBytes :
    decode Config.reference resetCtx [0b10010011#8] = .ok (.startDigital 3#4, []) ∧
    decode Config.reference resetCtx [0b11100101#8] = .ok (.startAnalog 5#4, []) ∧
    decode (withVersion 0xA0#8) resetCtx [0b10100101#8] = .ok (.startVersionNibble 5#4, []) ∧
    decode Config.reference resetCtx [0b10000101#8] = .ok (.dropNibble80 5#4, []) ∧
    decode movedOpcodes resetCtx [0b10011111#8] = .ok (.dropNibble90 15#4, []) ∧
    decode Config.reference resetCtx [0b10100001#8] = .ok (.dropNibbleA0 1#4, []) ∧
    decode Config.reference resetCtx [0b10110010#8] = .ok (.dropNibbleB0 2#4, []) ∧
    decode Config.reference resetCtx [0b11000100#8] = .ok (.dropNibbleC0 4#4, []) ∧
    decode Config.reference resetCtx [0b11011000#8] = .ok (.dropNibbleD0 8#4, []) ∧
    decode movedOpcodes resetCtx [0b11100000#8] = .ok (.dropNibbleE0 0#4, []) := by decide

theorem test_decode_systemBytes : ∀ p ∈ [((0b11110000#8 : Byte), Instr.startSysex), (0b11111001#8, .startVersionFull),
    (0b11110001#8, .dropSystemF1), (0b11110010#8, .dropSystemF2), (0b11110011#8, .dropSystemF3), (0b11110100#8, .dropSystemF4),
    (0b11110101#8, .dropSystemF5), (0b11110110#8, .dropSystemF6), (0b11110111#8, .dropSystemF7), (0b11111000#8, .dropSystemF8),
    (0b11111010#8, .dropSystemFA), (0b11111011#8, .dropSystemFB), (0b11111100#8, .dropSystemFC), (0b11111101#8, .dropSystemFD),
    (0b11111110#8, .dropSystemFE), (0b11111111#8, .dropSystemFF)],
    decode Config.reference resetCtx [p.1] = .ok (p.2, []) := by decide

theorem test_decode_systemF9 : decode (withVersion 0xA0#8) resetCtx [0b11111001#8] = .ok (.dropSystemF9, []) := by decide

theorem test_decode_sysexBytes :
    decode Config.reference (ctx .sysex 0#2 0#8 63#8 false) [0b11110000#8] = .ok (.append 0xF0#8, []) ∧
    decode Config.reference (ctx .sysex 0#2 0#8 64#8 false) [0b10010000#8] = .ok (.overflow 0x90#8, []) ∧
    decode Config.reference (ctx .sysex 0#2 0#8 64#8 false) [0b11110111#8] = .ok (.finalize, []) ∧
    decode Config.reference (ctx .sysex 0#2 0#8 5#8 true) [0b11110111#8] = .ok (.emitI2c, []) ∧
    decode Config.reference (ctx .halted 0#2 0#8 0#8 false) [0b11110111#8] = .ok (.ignoredHalted 0xF7#8, []) := by decide

/-- Table words: the first byte is the least significant eight bits. -/
theorem test_decodeTableWord : decodeTableWord 8 0x93 = some (.startDigital 3#4) ∧ decodeTableWord 8 0xF0 = some .startSysex ∧
    decodeTableWord 8 0xF9 = some .startVersionFull ∧ decodeTableWord 8 0xF7 = some .dropSystemF7 ∧
    decodeTableWord 8 0x05 = some (.dropDataByte 5#7) := by decide

/-- `withFetchWord` makes the next step run the word: T-LEAD-2. -/
theorem test_withFetchWord_runs : after (step (State.reset.withFetchWord 8 0x90)) (fun t =>
    decide (t.mode = .await ∧ t.pOp = 0x90#8 ∧ t.pCh = 0#4 ∧ t.rem = 2#2)) = true := by decide

/-! ### One step each: results of 95_test_vectors.md -/

/-- T-DIG-10, its second byte. -/
theorem test_firstData : after (step (offered 0x01#8 (awaiting Config.reference 0x90#8 0#4 2#2 0#7))) (fun t =>
    decide (t.mode = .await ∧ t.rem = 1#2 ∧ t.d0 = 1#7 ∧ t.lastAct = 3 ∧ t.events = [])) = true := by decide

/-- T-DIG-1, its last byte. -/
theorem test_digitalComplete_events : after (step (offered 0x00#8 (awaiting Config.reference 0x90#8 0#4 1#2 5#7))) (fun t =>
    decide (t.mode = .idle ∧ portOf t 0#4 = 5#16 ∧ t.events = [.digitalChanged 0 true, .digitalChanged 2 true])) = true := by decide

/-- T-DIG-5, its last byte: bits 13:8 are stored and not reported. -/
theorem test_digitalComplete_highBits : after (step (offered 0x01#8 (setPort 2#4 0x3F80#16 (awaiting Config.reference 0x90#8 2#4 1#2 0#7)))) (fun t =>
    decide (portOf t 2#4 = 0x0080#16 ∧ t.events = [] ∧ t.evt = .none)) = true := by decide

/-- T-FLT-1, its last byte. -/
theorem test_digitalComplete_outOfRange : after (step (offered 0x00#8 (awaiting smallBoard 0x90#8 2#4 1#2 0#7))) (fun t =>
    decide (t.mode = .halted ∧ t.fault = .digRange ∧ t.faultCh = 2#4 ∧ t.rem = 1#2 ∧ t.pOp = 0x90#8 ∧ t.lastAct = 3)) = true := by decide

/-- T-ANA-2, its last byte: the event is unconditional. -/
theorem test_analogComplete_unchanged : after (step (offered 0x7F#8 (setAna 3#4 0x3FFF#16 (awaiting Config.reference 0xE0#8 3#4 1#2 127#7)))) (fun t =>
    decide (anaOf t 3#4 = 0x3FFF#16 ∧ t.events = [.analogChanged 3#4 0x3FFF#16])) = true := by decide

/-- T-FLT-2, its last byte. -/
theorem test_analogComplete_outOfRange : after (step (offered 0x00#8 (awaiting smallBoard 0xE0#8 7#4 1#2 1#7))) (fun t =>
    decide (t.mode = .halted ∧ t.fault = .anaRange ∧ t.faultCh = 7#4 ∧ anaOf t 7#4 = 0#16)) = true := by decide

/-- T-VER-1, its last byte. -/
theorem test_versionComplete : after (step (offered 0x05#8 (awaiting Config.reference 0xF9#8 0#4 1#2 2#7))) (fun t =>
    decide (t.mode = .idle ∧ t.verMajor = 2#7 ∧ t.verMinor = 5#7 ∧ t.events = [])) = true := by decide

/-- R132: the multiplexer by P_OP, T-ANA-4 through the general row. -/
theorem test_secondData : after (exec (.secondData 2#7) (awaiting Config.reference 0xE0#8 1#4 1#2 0x23#7)) (fun t =>
    decide (t.mode = .idle ∧ anaOf t 1#4 = 0x0123#16 ∧ t.events = [.analogChanged 1#4 0x0123#16])) = true := by decide

/-- T-LEAD-6, its last byte. -/
theorem test_dropDataByte : after (step (offered 0x01#8 (State.reset))) (fun t =>
    decide (t.mode = .idle ∧ t.lastAct = 3 ∧ t.rem = 0#2)) = true := by decide

/-- R161, the example: 0x93 in IDLE. -/
theorem test_startDigital : after (step (offered 0x93#8 (State.reset))) (fun t =>
    decide (t.mode = .await ∧ t.pOp = 0x90#8 ∧ t.pCh = 3#4 ∧ t.rem = 2#2)) = true := by decide

/-- T-LEAD-10, its third byte: the pending command is replaced. -/
theorem test_startAnalog_replaces : after (step (offered 0xE0#8 (awaiting Config.reference 0x90#8 0#4 1#2 1#7))) (fun t =>
    decide (t.mode = .await ∧ t.pOp = 0xE0#8 ∧ t.pCh = 0#4 ∧ t.rem = 2#2 ∧ t.events = [])) = true := by decide

/-- T-LEAD-16, its first byte. -/
theorem test_startVersionNibble : after (step (offered 0xA5#8 (State.resetAt (withVersion 0xA0#8) 0))) (fun t =>
    decide (t.mode = .await ∧ t.pOp = 0xA0#8 ∧ t.rem = 2#2)) = true := by decide

/-- T-LEAD-4. -/
theorem test_startVersionFull : after (step (offered 0xF9#8 (State.reset))) (fun t =>
    decide (t.mode = .await ∧ t.pOp = 0xF9#8 ∧ t.pCh = 0#4 ∧ t.rem = 2#2)) = true := by decide

/-- T-LEAD-13, its third byte. -/
theorem test_startSysex_abandons : after (step (offered 0xF0#8 (awaiting Config.reference 0x90#8 0#4 1#2 1#7))) (fun t =>
    decide (t.mode = .sysex ∧ t.cnt = 0#8 ∧ t.events = [])) = true := by decide

/-- T-LEAD-11, its third byte. -/
theorem test_dropNibble80 : after (step (offered 0x85#8 (awaiting Config.reference 0x90#8 0#4 1#2 1#7))) (fun t =>
    decide (t.mode = .await ∧ t.rem = 1#2 ∧ t.d0 = 1#7 ∧ t.pOp = 0x90#8 ∧ t.lastAct = 3)) = true := by decide

/-- R162: a pending command survives. -/
theorem test_dropNibbleA0 : after (step (offered 0xA0#8 (awaiting Config.reference 0x90#8 0#4 1#2 1#7))) (fun t =>
    decide (t.mode = .await ∧ t.rem = 1#2 ∧ t.d0 = 1#7 ∧ t.pOp = 0x90#8 ∧ t.lastAct = 3)) = true := by decide

/-- R162: a pending command survives. -/
theorem test_dropNibbleB0 : after (step (offered 0xB1#8 (awaiting Config.reference 0x90#8 0#4 1#2 1#7))) (fun t =>
    decide (t.mode = .await ∧ t.rem = 1#2 ∧ t.d0 = 1#7 ∧ t.pOp = 0x90#8 ∧ t.lastAct = 3)) = true := by decide

/-- R162: a pending command survives. -/
theorem test_dropNibbleC0 : after (step (offered 0xC2#8 (awaiting Config.reference 0x90#8 0#4 1#2 1#7))) (fun t =>
    decide (t.mode = .await ∧ t.rem = 1#2 ∧ t.d0 = 1#7 ∧ t.pOp = 0x90#8 ∧ t.lastAct = 3)) = true := by decide

/-- R162: a pending command survives. -/
theorem test_dropNibbleD0 : after (step (offered 0xDF#8 (awaiting Config.reference 0x90#8 0#4 1#2 1#7))) (fun t =>
    decide (t.mode = .await ∧ t.rem = 1#2 ∧ t.d0 = 1#7 ∧ t.pOp = 0x90#8 ∧ t.lastAct = 3)) = true := by decide

/-- R83, last paragraph: the row of an opcode that is not configured drops. -/
theorem test_dropNibble90 : after (step (offered 0x90#8 (State.resetAt movedOpcodes 0))) (fun t =>
    decide (t.mode = .idle ∧ t.rem = 0#2 ∧ t.lastAct = 3)) = true := by decide

/-- R83, last paragraph: the row of an opcode that is not configured drops. -/
theorem test_dropNibbleE0 : after (step (offered 0xE5#8 (State.resetAt movedOpcodes 0))) (fun t =>
    decide (t.mode = .idle ∧ t.rem = 0#2 ∧ t.lastAct = 3)) = true := by decide

/-- T-LEAD-7, T-LEAD-8: each stray system byte drops. -/
theorem test_dropSystem : ∀ b ∈ [0xF1#8, 0xF2#8, 0xF3#8, 0xF4#8, 0xF5#8, 0xF6#8, 0xF7#8, 0xF8#8, 0xFA#8, 0xFB#8, 0xFC#8, 0xFD#8,
    0xFE#8, 0xFF#8], after (step (offered b State.reset)) (fun t => decide (t.mode = .idle ∧ t.lastAct = 3 ∧ t.events = [])) = true := by
  decide

/-- T-LEAD-16, its fourth byte. -/
theorem test_dropSystemF9 : after (step (offered 0xF9#8 (State.resetAt (withVersion 0xA0#8) 0))) (fun t =>
    decide (t.mode = .idle ∧ t.rem = 0#2 ∧ t.lastAct = 3)) = true := by decide

/-- T-LEAD-12, its third byte. -/
theorem test_dropSystemF4_keepsCommand : after (step (offered 0xF4#8 (awaiting Config.reference 0x90#8 0#4 1#2 1#7))) (fun t =>
    decide (t.mode = .await ∧ t.rem = 1#2 ∧ t.d0 = 1#7)) = true := by decide

/-- R100, the example. -/
theorem test_append : after (step (offered 0x10#8 (inSysex [0x77#8]))) (fun t =>
    decide (t.mode = .sysex ∧ t.cnt = 2#8 ∧ accByte t 0 = 0x77#8 ∧ accByte t 1 = 0x10#8)) = true := by decide

/-- T-LEAD-17, its last byte: a leading byte is body data. -/
theorem test_append_leadingByte : after (step (offered 0x90#8 (inSysex [0x77#8, 1#8]))) (fun t =>
    decide (t.mode = .sysex ∧ t.cnt = 3#8 ∧ accByte t 2 = 0x90#8)) = true := by decide

/-- T-SYX-6: the 65th body byte is lost. -/
theorem test_overflow : after (step (offered 0x90#8 (inLongSysex 1#8 64))) (fun t =>
    decide (t.mode = .idle ∧ t.cnt = 0#8 ∧ t.fault = .none ∧ t.events = [])) = true := by decide

/-- T-I2C-4: CNT = 4 is not above REPLY_MIN. -/
theorem test_finalize_tooShort : after (step (offered 0xF7#8 (inSysex [0x77#8, 0x10#8, 0#8, 5#8]))) (fun t =>
    decide (t.mode = .idle ∧ t.cnt = 0#8 ∧ t.i2cAddr = 0#16 ∧ t.events = [])) = true := by decide

/-- T-SYX-1. -/
theorem test_finalize_otherSubtype : after (step (offered 0xF7#8 (inSysex [0x78#8, 0x10#8, 0#8, 5#8, 0#8, 0#8]))) (fun t =>
    decide (t.mode = .idle ∧ t.evt = .none ∧ t.events = [])) = true := by decide

/-- T-I2C-1, its last byte. -/
theorem test_emitI2c : after (step (offered 0xF7#8 (inSysex [0x77#8, 0x10#8, 0#8, 5#8, 0#8, 0x2A#8, 0#8, 0x7F#8, 1#8]))) (fun t =>
    decide (t.mode = .idle ∧ t.i2cLen = 2#8 ∧ latchedPayload t = [0x2A#8, 0xFF#8] ∧
    t.events = [.i2cReceived 0x10#16 5#16 [0x2A#8, 0xFF#8]])) = true := by decide

/-- T-I2C-9: the OR is over all 8 bits. -/
theorem test_emitI2c_wideAddress : after (step (offered 0xF7#8 (inSysex [0x77#8, 0#8, 0xFF#8, 5#8, 0#8]))) (fun t =>
    decide (t.i2cAddr = 0x7F80#16 ∧ t.i2cLen = 0#8)) = true := by decide

/-- T-FLT-6. -/
theorem test_ignoredHalted : after (step (offered 0x90#8 (halted))) (fun t =>
    decide (t.mode = .halted ∧ t.fault = .transport ∧ t.lastAct = 0 ∧ t.pOp = 0#8)) = true := by decide

/-- T-FLT-3, the ERR. -/
theorem test_transportError : after (step (withPins errorPins (inSysex [0x77#8, 0x10#8]))) (fun t =>
    decide (t.mode = .halted ∧ t.fault = .transport ∧ t.cnt = 2#8 ∧ accByte t 1 = 0x10#8 ∧ t.lastAct = 0)) = true := by decide

/-- T-RST-4 with the time of T-RST-1. -/
theorem test_reset_priority : after (step (withPins { resetPins 100 with rxErr := true } halted)) (fun t =>
    decide (t.mode = .idle ∧ t.fault = .none ∧ t.lastAct = 100)) = true := by decide

/-! ### Witnesses: states and operands that meet the hypotheses of each statement, clause by clause at the ends of its ranges -/

/-- A second digital data byte pending on a channel of the small board. -/
def pendingDigital (ch : Channel) : State := awaiting smallBoard 0x90#8 ch 1#2 5#7

/-- A second analog data byte pending on a channel of the small board. -/
def pendingAnalog (ch : Channel) : State := awaiting smallBoard 0xE0#8 ch 1#2 5#7

/-- The sysex body of T-I2C-1. -/
def replyBytes : List Byte := [0x77#8, 0x10#8, 0#8, 5#8, 0#8, 0x2A#8, 0#8, 0x7F#8, 1#8]

theorem inv_reset : Inv State.reset := by constructor <;> decide

theorem inv_smallBoard : Inv (State.resetAt smallBoard 0) := by constructor <;> decide

theorem inv_nibbleVersion : Inv (State.resetAt (withVersion 0xA0#8) 0) := by constructor <;> decide

theorem inv_pendingDigital : Inv (pendingDigital 1#4) := by constructor <;> decide

theorem inv_reply : Inv (inSysex replyBytes) := by constructor <;> decide

theorem inv_fullSysex : Inv (inLongSysex 0x77#8 64) := by constructor <;> decide

theorem inv_halted : Inv halted := by constructor <;> decide

theorem witness_DecodeOfEncodeIsTheInstruction : Config.reference.Valid ∧
    ((Instr.startDigital 15#4).WellFormed Config.reference ∧ (Instr.startDigital 15#4).StandsIn Config.reference resetCtx) ∧
    ((Instr.append 0xFF#8).WellFormed Config.reference ∧
      (Instr.append 0xFF#8).StandsIn Config.reference (ctx .sysex 0#2 0#8 63#8 false)) ∧
    (Instr.emitI2c.WellFormed Config.reference ∧ Instr.emitI2c.StandsIn Config.reference (ctx .sysex 0#2 0#8 5#8 true)) := by decide

theorem witness_EveryByteIsOneWellFormedRow : Config.reference.Valid ∧ movedOpcodes.Valid := by decide

theorem witness_RowsDoNotOverlapInAState : Config.reference.Valid ∧ (Instr.dropDataByte 0#7).WellFormed Config.reference ∧
    (Instr.dropDataByte 0#7).StandsIn Config.reference resetCtx ∧
    encode Config.reference (.dropDataByte 0#7) = encode Config.reference (.dropDataByte 0#7) := by decide

theorem witness_StepRunsTheDecodedInstruction : ∀ s ∈ [offered 0x93#8 State.reset], (pinsNow s).rst = false ∧
    (pinsNow s).rxErr = false ∧ (pinsNow s).rxValid = true ∧ (pinsNow s).rxData = 0x93#8 ∧
    decode s.cfg (decodeCtx s) [0x93#8] = .ok (.startDigital 3#4, []) ∧ (Instr.startDigital 3#4).WellFormed s.cfg := by decide

theorem witness_InputPriorityAtOneEdge : (resetPins 7).rst = true ∧ (errorPins.rst = false ∧ errorPins.rxErr = true) ∧
    ((bytePins 0#8 7).rst = false ∧ (bytePins 0#8 7).rxErr = false ∧ (bytePins 0#8 7).rxValid = true) ∧
    (quietPins.rst = false ∧ quietPins.rxErr = false ∧ quietPins.rxValid = false) := by decide

theorem witness_ResetEdgeSetsEveryField : (pinsNow (withPins (resetPins 100) halted)).rst = true := by decide

theorem witness_TransportErrorHaltsPrecisely : ∀ s ∈ [inSysex replyBytes, halted], (pinsNow (withPins errorPins s)).rst = false ∧
    (pinsNow (withPins errorPins s)).rxErr = true := by decide

theorem witness_TransportErrorHaltsPrecisely_clauses : (withPins errorPins (inSysex replyBytes)).mode ≠ .halted ∧
    (withPins errorPins halted).mode = .halted := by decide

theorem witness_QuietEdgeKeepsEveryRegister : (pinsNow State.reset).rst = false ∧ (pinsNow State.reset).rxErr = false ∧
    (pinsNow State.reset).rxValid = false := by decide

theorem witness_DigitalCompleteWritesThePort : (pendingDigital 1#4).pCh.toNat < (pendingDigital 1#4).cfg.numPorts := by decide

theorem witness_DigitalOutOfRangeHalts : (pendingDigital 2#4).cfg.numPorts ≤ (pendingDigital 2#4).pCh.toNat := by decide

theorem witness_AnalogCompleteWritesTheChannel : (pendingAnalog 5#4).pCh.toNat < (pendingAnalog 5#4).cfg.numAnalog := by decide

theorem witness_AnalogOutOfRangeHalts : (pendingAnalog 6#4).cfg.numAnalog ≤ (pendingAnalog 6#4).pCh.toNat := by decide

theorem witness_SecondDataIsTheSelectedCompletion : smallBoard.Valid ∧
    (pendingDigital 0#4).pOp = (pendingDigital 0#4).cfg.opDigital ∧ (pendingAnalog 0#4).pOp = (pendingAnalog 0#4).cfg.opAnalog ∧
    (awaiting smallBoard 0xF9#8 0#4 1#2 0#7).pOp = smallBoard.opVersion ∧ smallBoard.unassigned State.reset.pOp ∧
    ((pendingDigital 1#4).pCh.toNat < smallBoard.numPorts ∧ (pendingDigital 1#4).pCh.toNat < smallBoard.numAnalog) := by decide

theorem witness_AppendStoresTheByte : Config.reference.Valid ∧
    (inLongSysex 1#8 63).cnt.toNat < (inLongSysex 1#8 63).cfg.sysexCap ∧ Memory.wf (inLongSysex 1#8 63).acc := by decide

theorem witness_AppendStopsAtTheCapacity : (inLongSysex 1#8 64).cfg.sysexCap ≤ (inLongSysex 1#8 64).cnt.toNat := by decide

theorem witness_FinalizeDiscardsAnInvalidFrame : (inLongSysex 0x77#8 4).cnt.toNat ≤ (inLongSysex 0x77#8 4).cfg.replyMin ∧
    accByte (inLongSysex 0x78#8 5) 0 ≠ 0x77#8 := by decide

theorem witness_EmitI2cLatchesTheReply : (inLongSysex 0x77#8 64).cnt.toNat ≤ (inLongSysex 0x77#8 64).cfg.sysexCap := by decide

theorem witness_FinalizeEmitsAValidFrame : ∀ n ∈ [5, 64], (inLongSysex 0x77#8 n).cnt.toNat ≤ (inLongSysex 0x77#8 n).cfg.sysexCap ∧
    (inLongSysex 0x77#8 n).cfg.replyMin < (inLongSysex 0x77#8 n).cnt.toNat ∧ accByte (inLongSysex 0x77#8 n) 0 = 0x77#8 := by decide

theorem witness_PayloadTruncationKeepsEightBits : (0x7F#8 : Byte) < 0x80#8 := by decide

theorem witness_RecognisedLeadingByteStartsTheCommand :
    (∀ s ∈ [offered 0x9F#8 State.reset], s.cfg.Valid ∧ inputOf (pinsNow s) = .byte 0x9F#8 ∧ s.mode = .idle ∧
      0x9F#8 &&& 0xF0#8 = s.cfg.opDigital ∧ 0x9F#8 &&& 0x0F#8 = (15#4).setWidth 8) ∧
    ∀ s ∈ [offered 0xE0#8 (pendingDigital 1#4)], s.cfg.Valid ∧ inputOf (pinsNow s) = .byte 0xE0#8 ∧ s.mode = .await ∧
      0x80#8 ≤ 0xE0#8 ∧ 0xE0#8 &&& 0xF0#8 = s.cfg.opAnalog ∧ 0xE0#8 &&& 0x0F#8 = (0#4).setWidth 8 := by decide

theorem witness_RecognisedLeadingByteStartsTheCommand_version :
    (∀ s ∈ [offered 0xA5#8 (State.resetAt (withVersion 0xA0#8) 0)], s.cfg.Valid ∧ inputOf (pinsNow s) = .byte 0xA5#8 ∧
      s.mode = .idle ∧ s.cfg.opVersion < 0xF0#8 ∧ 0xA5#8 &&& 0xF0#8 = s.cfg.opVersion ∧ 0xA5#8 &&& 0x0F#8 = (5#4).setWidth 8) ∧
    ∀ s ∈ [offered 0xF9#8 (pendingDigital 1#4)], s.cfg.Valid ∧ inputOf (pinsNow s) = .byte 0xF9#8 ∧ s.mode = .await ∧
      0x80#8 ≤ 0xF9#8 ∧ 0xF0#8 ≤ s.cfg.opVersion ∧ 0xF9#8 = s.cfg.opVersion := by decide

theorem witness_UnrecognisedByteChangesOnlyTheTimestamp : ∀ b ∈ [0x80#8, 0xDF#8, 0xF1#8, 0xF7#8, 0xFF#8],
    ∀ s ∈ [offered b (pendingDigital 1#4), offered b State.reset], s.cfg.Valid ∧ inputOf (pinsNow s) = .byte b ∧
    (s.mode = .idle ∨ s.mode = .await ∧ 0x80#8 ≤ b) ∧ b &&& 0xF0#8 ≠ s.cfg.opDigital ∧ b &&& 0xF0#8 ≠ s.cfg.opAnalog ∧
    ¬ (s.cfg.opVersion < 0xF0#8 ∧ b &&& 0xF0#8 = s.cfg.opVersion) ∧ b ≠ s.cfg.opVersion ∧ b ≠ 0xF0#8 := by decide

theorem witness_StartSysexByteOpensASysex : ∀ s ∈ [offered 0xF0#8 State.reset, offered 0xF0#8 (pendingDigital 1#4)], s.cfg.Valid ∧
    inputOf (pinsNow s) = .byte 0xF0#8 ∧ (s.mode = .idle ∨ s.mode = .await) := by decide

theorem witness_FirstDataByteIsStored : ∀ b ∈ [0#8, 0x7F#8], ∀ s ∈ [offered b (awaiting Config.reference 0x90#8 0#4 2#2 0#7)],
    inputOf (pinsNow s) = .byte b ∧ s.mode = .await ∧ s.rem = 2#2 ∧ b < 0x80#8 := by decide

theorem witness_BodyByteIsAppended : ∀ b ∈ [0#8, 0xF0#8, 0xFF#8], ∀ s ∈ [offered b (inLongSysex 1#8 63)], s.cfg.Valid ∧
    Memory.wf s.acc ∧ inputOf (pinsNow s) = .byte b ∧ s.mode = .sysex ∧ b ≠ 0xF7#8 ∧ s.cnt.toNat < s.cfg.sysexCap := by decide

theorem witness_BodyByteOverflowsSilently : ∀ b ∈ [0#8, 0xF0#8, 0xFF#8], ∀ s ∈ [offered b (inLongSysex 1#8 64)],
    inputOf (pinsNow s) = .byte b ∧ s.mode = .sysex ∧ b ≠ 0xF7#8 ∧ s.cnt.toNat = s.cfg.sysexCap := by decide

theorem witness_EndMarkerFinalizesTheSysex : ∀ s ∈ [offered 0xF7#8 (inLongSysex 0x77#8 64), offered 0xF7#8 (inLongSysex 0x77#8 5),
    offered 0xF7#8 (inLongSysex 0x77#8 4), offered 0xF7#8 (inLongSysex 1#8 64)],
    inputOf (pinsNow s) = .byte 0xF7#8 ∧ s.mode = .sysex ∧ s.cnt.toNat ≤ s.cfg.sysexCap := by decide

theorem witness_EndMarkerFinalizesTheSysex_discard :
    ¬ ((inLongSysex 0x77#8 4).cfg.replyMin < (inLongSysex 0x77#8 4).cnt.toNat ∧ accByte (inLongSysex 0x77#8 4) 0 = 0x77#8) ∧
    ¬ ((inLongSysex 1#8 64).cfg.replyMin < (inLongSysex 1#8 64).cnt.toNat ∧ accByte (inLongSysex 1#8 64) 0 = 0x77#8) := by decide

theorem witness_EveryStepKeepsTheInvariant : ∃ t, Inv State.reset ∧ step State.reset = .next t := ⟨_, inv_reset, rfl⟩

/-- A step of every mode from a state that meets the invariant. -/
theorem witness_EveryStepKeepsTheInvariant_modes :
    (∃ t, Inv (pendingDigital 1#4) ∧ step (pendingDigital 1#4) = .next t) ∧
    (∃ t, Inv (inSysex replyBytes) ∧ step (inSysex replyBytes) = .next t) ∧ ∃ t, Inv halted ∧ step halted = .next t :=
  ⟨⟨_, inv_pendingDigital, rfl⟩, ⟨_, inv_reply, rfl⟩, _, inv_halted, rfl⟩

theorem witness_ResetMeetsTheInvariant : Config.reference.Valid := by decide

theorem witness_NoStopUnderTheInvariant : Inv (inLongSysex 0x77#8 64) := inv_fullSysex

theorem witness_TimestampFollowsConsumedBytes :
    (∃ t, step (withPins (resetPins 7) halted) = .next t) ∧ (∃ t, step (offered 1#8 halted) = .next t) ∧
    (∃ t, step (offered 1#8 State.reset) = .next t) ∧ (∃ t, step (withPins errorPins State.reset) = .next t) ∧
    ∃ t, step State.reset = .next t := ⟨⟨_, rfl⟩, ⟨_, rfl⟩, ⟨_, rfl⟩, ⟨_, rfl⟩, ⟨_, rfl⟩⟩

/-- Each of the three clauses, at the last channel of the small board: the register changes. -/
theorem witness_RegisterFilesChangeOnlyByTheirMessage :
    (∃ t, step (offered 0#8 (pendingDigital 1#4)) = .next t ∧ portOf t 1#4 ≠ portOf (offered 0#8 (pendingDigital 1#4)) 1#4) ∧
    (∃ t, step (offered 0x7F#8 (pendingAnalog 5#4)) = .next t ∧ anaOf t 5#4 ≠ anaOf (offered 0x7F#8 (pendingAnalog 5#4)) 5#4) ∧
    ∃ t, step (offered 5#8 (awaiting smallBoard 0xF9#8 0#4 1#2 2#7)) = .next t ∧ t.verMajor ≠ 0#7 :=
  ⟨⟨_, rfl, by decide⟩, ⟨_, rfl, by decide⟩, ⟨_, rfl, by decide⟩⟩

theorem witness_LatchChangesOnlyByAnAcceptedReply : ∃ t, (pinsNow (offered 0xF7#8 (inSysex replyBytes))).rst = false ∧
    step (offered 0xF7#8 (inSysex replyBytes)) = .next t ∧ t.i2cAddr ≠ (offered 0xF7#8 (inSysex replyBytes)).i2cAddr :=
  ⟨_, rfl, rfl, by decide⟩

/-- Each of the three causes, at the first channel past the board. -/
theorem witness_FaultRegistersChangeOnlyAtAHalt :
    (∃ t, step (withPins errorPins State.reset) = .next t ∧ t.fault ≠ .none) ∧
    (∃ t, step (offered 0#8 (pendingDigital 2#4)) = .next t ∧ t.faultCh ≠ 0#4) ∧
    ∃ t, step (offered 0#8 (pendingAnalog 6#4)) = .next t ∧ t.faultCh ≠ 0#4 :=
  ⟨⟨_, rfl, by decide⟩, ⟨_, rfl, by decide⟩, ⟨_, rfl, by decide⟩⟩

theorem witness_HaltedIsLeftOnlyByReset : ∀ p ∈ [errorPins, bytePins 0x90#8 3, quietPins], (withPins p halted).mode = .halted ∧
    (pinsNow (withPins p halted)).rst = false := by decide

theorem witness_HaltedIsLeftOnlyByReset_reset : (withPins (resetPins 7) halted).mode = .halted ∧
    (pinsNow (withPins (resetPins 7) halted)).rst = true := by decide

/-- One step of each event class. -/
theorem witness_OneEventClassPerStep :
    (∃ t, step (offered 0#8 (pendingDigital 1#4)) = .next t ∧ t.events ≠ []) ∧
    (∃ t, step (offered 0#8 (pendingAnalog 5#4)) = .next t ∧ t.events ≠ []) ∧
    ∃ t, step (offered 0xF7#8 (inSysex replyBytes)) = .next t ∧ t.events ≠ [] :=
  ⟨⟨_, rfl, by decide⟩, ⟨_, rfl, by decide⟩, ⟨_, rfl, by decide⟩⟩

/-- A valid digital and a valid analog event word. -/
theorem witness_EventOutputsPresentTheEventList :
    (∃ t, step (offered 0#8 (pendingDigital 1#4)) = .next t ∧ (outputs t).digEvtValid = true) ∧
    ∃ t, step (offered 0#8 (pendingAnalog 5#4)) = .next t ∧ (outputs t).anaEvtValid = true :=
  ⟨⟨_, rfl, by decide⟩, ⟨_, rfl, by decide⟩⟩

theorem witness_NoStepChangesTheConfiguration : ∃ t, step (offered 0#8 (pendingDigital 2#4)) = .next t := ⟨_, rfl⟩

/-- A step that stays outside AWAIT, and one that enters it. -/
theorem witness_PendingFieldsAreUnreadOutsideAwait :
    (State.reset.mode ≠ .await ∧ ∃ t, step State.reset = .next t) ∧
    ((offered 0x90#8 State.reset).mode ≠ .await ∧ ∃ t, step (offered 0x90#8 State.reset) = .next t ∧ t.mode = .await) :=
  ⟨⟨by decide, _, rfl⟩, by decide, _, rfl, by decide⟩

theorem witness_TimestampIsNeverRead : ∃ t, step (offered 0xF7#8 (inSysex replyBytes)) = .next t := ⟨_, rfl⟩

theorem witness_OutputPortsShowTheRegisters : ∀ s ∈ [latchReply 0x10#16 5#16 [0x2A#8, 0xFF#8] (withPins { quietPins with plIdx := 1#8 } State.reset)],
    (pinsNow s).plIdx.toNat < s.i2cLen.toNat ∧ (outputs s).i2cPl = 0xFF#8 := by decide

theorem inv_smallBoard_ports : Inv (withPins { quietPins with portIdx := 2#4, anaIdx := 6#4 } (State.resetAt smallBoard 0)) := by
  constructor <;> decide

theorem witness_ReadPortsBeyondTheBoardGiveZero : ∃ s, Inv s ∧ s.cfg.numPorts ≤ (pinsNow s).portIdx.toNat ∧
    s.cfg.numAnalog ≤ (pinsNow s).anaIdx.toNat := ⟨_, inv_smallBoard_ports, by decide⟩

/-- From AWAIT and from IDLE, at the last port, with the largest groups. -/
theorem witness_DigitalFrameSetsThePort : (1#4).toNat < smallBoard.numPorts ∧ (0x7F#8 : Byte) < 0x80#8 ∧
    (Inv (pendingDigital 1#4) ∧ (pendingDigital 1#4).mode = .await) ∧
    (Inv (State.resetAt smallBoard 0) ∧ (State.resetAt smallBoard 0).mode = .idle) :=
  ⟨by decide, by decide, ⟨inv_pendingDigital, rfl⟩, inv_smallBoard, rfl⟩

/-- From AWAIT and from IDLE, at the last analog channel, with the largest groups. -/
theorem witness_AnalogFrameSetsTheChannel : (5#4).toNat < smallBoard.numAnalog ∧ (0x7F#8 : Byte) < 0x80#8 ∧
    (Inv (pendingDigital 1#4) ∧ (pendingDigital 1#4).mode = .await) ∧
    (Inv (State.resetAt smallBoard 0) ∧ (State.resetAt smallBoard 0).mode = .idle) :=
  ⟨by decide, by decide, ⟨inv_pendingDigital, rfl⟩, inv_smallBoard, rfl⟩

/-- Both forms of the version opcode. -/
theorem witness_VersionFrameSetsBothFields : (Inv State.reset ∧ State.reset.mode = .idle) ∧
    Inv (State.resetAt (withVersion 0xA0#8) 0) ∧ (State.resetAt (withVersion 0xA0#8) 0).mode = .idle :=
  ⟨⟨inv_reset, rfl⟩, inv_nibbleVersion, rfl⟩

/-- The shortest reply and the longest that fits (T-I2C-5, T-I2C-10). -/
theorem witness_ReplyFrameRoundTrip : Inv State.reset ∧ State.reset.mode = .idle ∧
    ∀ vs ∈ [[], List.replicate 29 (1#14)], 2 * vs.length + 5 ≤ State.reset.cfg.sysexCap ∧
      State.reset.cfg.replyMin < 2 * vs.length + 5 ∧
      ((replyFrame 1#14 2#14 vs).map (fun b => (b, 0))).map Prod.fst = replyFrame 1#14 2#14 vs := ⟨inv_reset, by decide⟩

/-- The shortest body that is too long (T-SYX-4). -/
theorem witness_OverlongSysexLeavesNoTrace : Inv State.reset ∧ State.reset.mode = .idle ∧ (∀ b ∈ List.replicate 65 (1#8), b < 0x80#8) ∧
    State.reset.cfg.sysexCap < (List.replicate 65 (1#8)).length ∧
    ((sysexFrame (List.replicate 65 (1#8))).map (fun b => (b, 0))).map Prod.fst = sysexFrame (List.replicate 65 (1#8)) := ⟨inv_reset, by decide⟩

/-- The empty body (T-SYX-2), the longest reply that is too short (T-I2C-4), and a full body of another subtype. -/
theorem witness_OtherSysexIsDiscarded : Inv State.reset ∧ State.reset.mode = .idle ∧
    ∀ body ∈ [[], [0x77#8, 0x10#8, 0#8, 5#8], List.replicate 64 (0xF0#8)], (∀ b ∈ body, b ≠ 0xF7#8) ∧
      body.length ≤ State.reset.cfg.sysexCap ∧ (body.head? ≠ some 0x77#8 ∨ body.length ≤ State.reset.cfg.replyMin) ∧
      ((sysexFrame body).map (fun b => (b, 0))).map Prod.fst = sysexFrame body := ⟨inv_reset, by decide⟩

end Sys2Proof.Tests
end

section
/-! SUPPORT. A body byte in SYSEX with room (40_sysex.md R100): the row it is read as, what the row does, and the edge it makes. -/

namespace Sys2Proof.Machine

/-- An edge at which a byte is offered performs the row the byte is read as (30_encoding.md R80). -/
theorem step_of_byte {b : Byte} {s u : State} (hin : inputOf (pinsNow s) = .byte b) (hex : exec (readByte b s) s = .next u) :
    step s = .next (nextEdge u) :=
  step_next.2 ⟨u, by rw [hin]; exact hex, rfl⟩

theorem readByte_append {b : Byte} {s : State} (hm : s.mode = .sysex) (hb : b ≠ endSysexByte)
    (hc : s.cnt.toNat < s.cfg.sysexCap) : readByte b s = .append b := by
  simp only [readByte, decodeByte, decodeCtx, hm, sysexByte, if_neg hb, if_neg hc.ne]

theorem exec_append {b : Byte} {s : State} (hc : s.cnt.toNat < s.cfg.sysexCap) :
    exec (.append b) s = .next (pushBody b (consumeByte s)) := if_pos hc

theorem step_append {b : Byte} {s : State} (hin : inputOf (pinsNow s) = .byte b) (hm : s.mode = .sysex)
    (hb : b ≠ endSysexByte) (hc : s.cnt.toNat < s.cfg.sysexCap) :
    step s = .next (nextEdge (pushBody b (consumeByte s))) :=
  step_of_byte hin (by rw [readByte_append hm hb hc, exec_append hc])

/-- CNT does not wrap below the largest capacity that R5 allows. -/
theorem pushBody_cnt_toNat {s : State} (b : Byte) (hc : s.cnt.toNat < 255) :
    (pushBody b s).cnt.toNat = s.cnt.toNat + 1 := by
  rw [pushBody_cnt, BitVec.toNat_add_of_lt (by simpa using Nat.succ_lt_succ hc)]
  rfl

/-- The next edge draws new free values, and leaves the entries that hold a meaning. -/
theorem accByte_nextEdge {s : State} {i : Nat} (h : i < s.cnt.toNat) : accByte (nextEdge s) i = accByte s i := by
  rw [accByte_below h, accByte_below (s := nextEdge s) h, nextEdge_acc]

/-- Consuming a byte leaves the accumulator, the free entries included. -/
@[simp] theorem accByte_consumeByte (s : State) (i : Nat) : accByte (consumeByte s) i = accByte s i := rfl

/-- The body after the edge of a stored byte: the byte at CNT, and the earlier bytes as they were. -/
theorem accByte_edge_pushBody {b : Byte} {s : State} (hw : s.acc.wf) (hc : s.cnt.toNat < 255) {i : Nat}
    (hi : i ≤ s.cnt.toNat) :
    accByte (nextEdge (pushBody b (consumeByte s))) i = if i = s.cnt.toNat then b else accByte s i := by
  have hcnt := pushBody_cnt_toNat (s := consumeByte s) b hc
  rw [accByte_nextEdge (by rw [hcnt]; exact Nat.lt_succ_of_le hi), accByte_pushBody (s := consumeByte s) b hw hc hi, consumeByte_cnt,
    accByte_consumeByte]

/-- Settles O33: the byte is read as APPEND, and R5 keeps CNT below 255, so that CNT does not wrap and no earlier entry is
overwritten. -/
theorem bodyByteIsAppended : Obligations.BodyByteIsAppended := by
  intro s b hv hw hin hm hb hroom
  have hc : s.cnt.toNat < 255 := hroom.trans_le hv.1.2.2
  refine ⟨_, step_append hin hm hb hroom, rfl, pushBody_cnt_toNat b hc, ?_, fun i hi => ?_⟩
  · rw [accByte_edge_pushBody hw hc le_rfl, if_pos rfl]
  · rw [accByte_edge_pushBody hw hc hi.le, if_neg hi.ne]

end Sys2Proof.Machine
end

section
/-! SUPPORT. Data bytes in AWAIT (41_data_bytes.md): the digital events seen bit by bit, what the two range-checked completions do on
the board, and the edge of the first data byte. -/

namespace Sys2Proof.Machine

/-! ### The digital events -/

theorem lowByte_getLsbD (v : Half) {i : Nat} (hi : i < 8) : (lowByte v).getLsbD i = v.getLsbD i := by
  simp [lowByte, hi]

/-- A bit of the change mask is set where the two values differ (R136). -/
theorem changeMask_getLsbD (old v : Half) {i : Nat} (hi : i < 8) :
    (changeMask old v).getLsbD i = true ↔ old.getLsbD i ≠ v.getLsbD i := by
  rw [changeMask, lowByte_getLsbD _ hi, BitVec.getLsbD_xor, bne_iff_ne]

/-- The events read off the two values themselves: every bit of 7:0 that differs, by ascending bit, with its new level (R136). -/
theorem digitalEvents_eq (ch : Channel) (old v : Half) :
    digitalEvents ch old v = (List.range 8).filterMap (fun i =>
      if old.getLsbD i = v.getLsbD i then none else some (.digitalChanged (8 * ch.toNat + i) (v.getLsbD i))) := by
  refine List.filterMap_congr fun i hi => ?_
  have hi8 : i < 8 := List.mem_range.1 hi
  simp only [changeMask_getLsbD old v hi8, lowByte_getLsbD v hi8, pinNumber, Nat.add_comm i, ite_not]

/-! ### The completions on the board -/

theorem exec_digitalComplete {d : Data7} {s : State} (h : s.pCh.toNat < s.cfg.numPorts) :
    exec (.digitalComplete d) s = .next
      (emitEvents (digitalWord s.pCh (portOf s s.pCh) (joinData s.d0 d))
        (digitalEvents s.pCh (portOf s s.pCh) (joinData s.d0 d))
        (setPort s.pCh (joinData s.d0 d) (finishCommand (consumeByte s)))) :=
  congrArg Host.Outcome.next (digitalBranch_writes h)

theorem exec_analogComplete {d : Data7} {s : State} (h : s.pCh.toNat < s.cfg.numAnalog) :
    exec (.analogComplete d) s = .next
      (emitEvents (analogWord s.pCh (joinData s.d0 d)) [.analogChanged s.pCh (joinData s.d0 d)]
        (setAna s.pCh (joinData s.d0 d) (finishCommand (consumeByte s)))) :=
  congrArg Host.Outcome.next (analogBranch_writes h)

/-- Settles O12: below NUM_PORTS the digital branch writes the joined value, and the events of its change mask are those of the bits in
which the old and the new value differ. -/
theorem digitalCompleteWritesThePort : Obligations.DigitalCompleteWritesThePort := by
  intro d s h
  refine ⟨joinData s.d0 d, joinData_toNat _ _, ?_⟩
  rw [exec_digitalComplete h, digitalEvents_eq]
  rfl

/-- Settles O14: below NUM_ANALOG the analog branch writes the joined value and emits its one event, without a look at the register. -/
theorem analogCompleteWritesTheChannel : Obligations.AnalogCompleteWritesTheChannel := by
  intro d s h
  exact ⟨joinData s.d0 d, joinData_toNat _ _, exec_analogComplete h⟩

/-! ### The first data byte -/

/-- A data byte is its own data group (R70). -/
theorem dataOf_toNat {b : Byte} (h : b < 0x80#8) : (dataOf b).toNat = b.toNat := by
  rw [dataOf, BitVec.extractLsb'_toNat, Nat.shiftRight_zero]
  exact Nat.mod_eq_of_lt h

theorem readByte_firstData {b : Byte} {s : State} (hm : s.mode = .await) (hr : s.rem = 2#2) (hb : b < 0x80#8) :
    readByte b s = .firstData (dataOf b) := by
  simp only [readByte, decodeByte, decodeCtx, hm, awaitDataByte, if_pos hb, if_pos hr]

theorem exec_firstData (d : Data7) (s : State) : exec (.firstData d) s = .next (storeFirst d (consumeByte s)) := rfl

theorem step_firstData {b : Byte} {s : State} (hin : inputOf (pinsNow s) = .byte b) (hm : s.mode = .await)
    (hr : s.rem = 2#2) (hb : b < 0x80#8) :
    step s = .next (nextEdge (storeFirst (dataOf b) (consumeByte s))) :=
  step_of_byte hin (by rw [readByte_firstData hm hr hb, exec_firstData])

/-- Settles O32: the byte is read as FIRST_DATA, whose operand is the byte itself. -/
theorem firstDataByteIsStored : Obligations.FirstDataByteIsStored := by
  intro s b hin hm hr hb
  exact ⟨dataOf b, dataOf_toNat hb, step_firstData hin hm hr hb⟩

end Sys2Proof.Machine
end

section
/-! SUPPORT. Leading bytes at an edge (42_leading_bytes.md): the states a byte is read as a leading byte in, the command a recognised
byte starts, and the byte that starts nothing. -/

namespace Sys2Proof.Machine

/-! ### Reading a leading byte -/

/-- In IDLE every byte, and in AWAIT every byte from 0x80 on, is read by its leading form (R80, R160). -/
theorem readByte_leading {b : Byte} {s : State} (hm : s.mode = .idle ∨ s.mode = .await ∧ 0x80#8 ≤ b) :
    readByte b s = leadingByte s.cfg b := by
  rcases hm with hm | ⟨hm, hb⟩
  · simp only [readByte, decodeByte, decodeCtx, hm]
  · simp only [readByte, decodeByte, decodeCtx, hm, if_neg (BitVec.not_lt.2 hb)]

theorem step_leading {b : Byte} {s u : State} (hin : inputOf (pinsNow s) = .byte b)
    (hm : s.mode = .idle ∨ s.mode = .await ∧ 0x80#8 ≤ b) (hex : exec (leadingByte s.cfg b) s = .next u) :
    step s = .next (nextEdge u) :=
  step_of_byte hin (by rw [readByte_leading hm, hex])

/-! ### A byte that starts a command -/

/-- A byte is its two fields (R71). -/
theorem eq_opcode_or_channel {b op : Byte} {ch : Channel} (hop : b &&& 0xF0#8 = op) (hch : b &&& 0x0F#8 = ch.setWidth 8) :
    b = op ||| ch.setWidth 8 := by
  rw [← hop, ← hch, ← BitVec.and_or_distrib_left]
  exact BitVec.and_allOnes.symm

/-- A channel leading byte is compared with the three opcodes by its high nibble alone (R160). -/
theorem leadingByte_nibble {op : Byte} (h : IsNibbleOpcode op) (c : Config) (ch : Channel) :
    leadingByte c (op ||| ch.setWidth 8) =
      if op = c.opDigital then .startDigital ch
      else if op = c.opAnalog then .startAnalog ch
      else if c.nibbleVersion ∧ op = c.opVersion then .startVersionNibble ch
      else dropChannelByte (op ||| ch.setWidth 8) := by
  obtain ⟨hlt, -, hop, hch⟩ := isNibbleOpcode_fields h ch
  rw [leadingByte, if_pos hlt, hop, hch]

theorem leadingByte_digital {c : Config} (hv : c.Valid) (ch : Channel) :
    leadingByte c (c.opDigital ||| ch.setWidth 8) = .startDigital ch := by
  obtain ⟨-, ⟨hd, -⟩, -⟩ := hv
  rw [leadingByte_nibble hd, if_pos rfl]

theorem leadingByte_analog {c : Config} (hv : c.Valid) (ch : Channel) :
    leadingByte c (c.opAnalog ||| ch.setWidth 8) = .startAnalog ch := by
  obtain ⟨hne, -⟩ := opcodes_ne hv
  obtain ⟨-, ⟨-, ha, -⟩, -⟩ := hv
  rw [leadingByte_nibble ha, if_neg hne, if_pos rfl]

theorem leadingByte_versionNibble {c : Config} (hv : c.Valid) (hn : c.nibbleVersion) (ch : Channel) :
    leadingByte c (c.opVersion ||| ch.setWidth 8) = .startVersionNibble ch := by
  obtain ⟨-, hd, ha⟩ := opcodes_ne hv
  obtain ⟨-, -, hver, -⟩ := hv
  rw [if_pos hn] at hver
  rw [leadingByte_nibble hver.1, if_neg hd, if_neg ha, if_pos ⟨hn, rfl⟩]

/-- The full-byte version opcode is not START_SYSEX (R8), so the test before it fails. -/
theorem leadingByte_versionFull {c : Config} (hv : c.Valid) (hn : ¬ c.nibbleVersion) :
    leadingByte c c.opVersion = .startVersionFull := by
  obtain ⟨-, -, hver, -⟩ := hv
  rw [if_neg hn] at hver
  rw [leadingByte, if_neg hn, if_neg hver.1, if_pos ⟨hn, rfl⟩]

/-- A byte under a configured nibble opcode starts that opcode's command on its channel (R161). -/
theorem exec_leadingByte_nibble {op : Byte} {s : State} (hv : s.cfg.Valid) (ch : Channel)
    (hop : op = s.cfg.opDigital ∨ op = s.cfg.opAnalog ∨ s.cfg.nibbleVersion ∧ op = s.cfg.opVersion) :
    exec (leadingByte s.cfg (op ||| ch.setWidth 8)) s = .next (startCommand op ch (consumeByte s)) := by
  rcases hop with rfl | rfl | ⟨hn, rfl⟩
  · rw [leadingByte_digital hv]
    rfl
  · rw [leadingByte_analog hv]
    rfl
  · rw [leadingByte_versionNibble hv hn]
    rfl

/-- The full-byte version opcode starts the version command on channel 0 (R163). -/
theorem exec_leadingByte_versionFull {s : State} (hv : s.cfg.Valid) (hn : ¬ s.cfg.nibbleVersion) :
    exec (leadingByte s.cfg s.cfg.opVersion) s = .next (startCommand s.cfg.opVersion 0#4 (consumeByte s)) := by
  rw [leadingByte_versionFull hv hn]
  rfl

/-- Settles O29: in both forms the byte is read as the start of its command, and a start does not read what is pending. -/
theorem recognisedLeadingByteStartsTheCommand : Obligations.RecognisedLeadingByteStartsTheCommand := by
  intro s b op ch hv hin hm hform
  have hex : exec (leadingByte s.cfg b) s = .next (startCommand op ch (consumeByte s)) := by
    rcases hform with ⟨hop, hnib, hch⟩ | ⟨hfull, rfl, rfl, rfl⟩
    · rw [eq_opcode_or_channel hnib hch]
      exact exec_leadingByte_nibble hv ch hop
    · exact exec_leadingByte_versionFull hv (BitVec.not_lt.2 hfull)
  exact step_leading hin hm hex

/-! ### A byte that starts nothing -/

/-- From 0xF0 on, only START_SYSEX has the low nibble 0. -/
theorem channelOf_system_ne_zero : ∀ b : Byte, ¬ b < 0xF0#8 → b ≠ startSysexByte → channelOf b ≠ 0#4 := by decide

/-- Below 0xF0 the high nibble is compared with the opcodes (R162), from 0xF0 on the whole byte (R165). -/
theorem exec_leadingByte_unrecognised {b : Byte} {s : State} (hd : opcodeOf b ≠ s.cfg.opDigital)
    (ha : opcodeOf b ≠ s.cfg.opAnalog) (hn : ¬ (s.cfg.nibbleVersion ∧ opcodeOf b = s.cfg.opVersion))
    (hver : b ≠ s.cfg.opVersion) (hstart : b ≠ startSysexByte) :
    exec (leadingByte s.cfg b) s = .next (consumeByte s) := by
  by_cases hb : b < 0xF0#8
  · rw [leadingByte, if_pos hb, if_neg hd, if_neg ha, if_neg hn, exec_dropChannelByte]
  · rw [leadingByte, if_neg hb, if_neg hstart, if_neg (fun h => hver h.2), exec_systemByte,
      if_neg (channelOf_system_ne_zero b hb hstart)]

/-- Settles O30: the byte is read as a drop, which consumes it and leaves a pending command as it is. -/
theorem unrecognisedByteChangesOnlyTheTimestamp : Obligations.UnrecognisedByteChangesOnlyTheTimestamp := by
  intro s b _ hin hm hd ha hn hver hstart
  exact step_leading hin hm (exec_leadingByte_unrecognised hd ha hn hver hstart)

end Sys2Proof.Machine
end

section
/-! SUPPORT. The reading of a byte and the encoding of a row, each undone by the other (30_encoding.md R70, R71, R83): first from a row
to its byte and back, then from a byte to its row and back. -/

namespace Sys2Proof.Machine

/-! ### The fields of a byte -/

theorem dataOf_setWidth : ∀ d : Data7, dataOf (d.setWidth 8) = d := by decide

theorem dataByte_lt (d : Data7) : d.setWidth 8 < 0x80#8 := by
  rw [BitVec.lt_def, BitVec.toNat_setWidth]
  exact (Nat.mod_le _ _).trans_lt d.isLt

theorem setWidth_dataOf {b : Byte} (h : b < 0x80#8) : (dataOf b).setWidth 8 = b := by
  apply BitVec.eq_of_toNat_eq
  rw [BitVec.toNat_setWidth, dataOf_toNat h, Nat.mod_eq_of_lt b.isLt]

/-- A byte is its opcode nibble and its channel (R71). -/
theorem opcodeOf_or_channelOf : ∀ b : Byte, opcodeOf b ||| (channelOf b).setWidth 8 = b := by decide

theorem opcodeOf_eq_nibble : ∀ b : Byte, opcodeOf b = (nibbleOf b).setWidth 8 <<< 4 := by decide

/-! ### From a row to its byte and back -/

section
variable {c : Config} {x : DecodeCtx}

/-- A byte from 0x80 on is read by its leading form in IDLE and in AWAIT (R80). -/
theorem decodeByte_leading {b : Byte} (hm : x.mode = .idle ∨ x.mode = .await) (hb : ¬ b < 0x80#8) :
    decodeByte c x b = leadingByte c b := by
  rcases hm with hm | hm <;> simp only [decodeByte, hm, if_neg hb]

theorem decodeByte_data (d : Data7) (hm : x.mode = .await) : decodeByte c x (d.setWidth 8) = awaitDataByte c x d := by
  simp only [decodeByte, hm, if_pos (dataByte_lt d), dataOf_setWidth]

theorem decodeByte_sysex (b : Byte) (hm : x.mode = .sysex) : decodeByte c x b = sysexByte c x b := by
  simp only [decodeByte, hm]

theorem decodeByte_halted (b : Byte) (hm : x.mode = .halted) : decodeByte c x b = .ignoredHalted b := by
  simp only [decodeByte, hm]

/-- A channel leading byte is read by its leading form in IDLE and in AWAIT. -/
theorem decodeByte_nibble {op : Byte} (h : IsNibbleOpcode op) (ch : Channel) (hm : x.mode = .idle ∨ x.mode = .await) :
    decodeByte c x (op ||| ch.setWidth 8) = leadingByte c (op ||| ch.setWidth 8) :=
  decodeByte_leading hm (isNibbleOpcode_fields h ch).2.1

theorem dropChannelByte_data : ∀ d : Data7, dropChannelByte (d.setWidth 8) = .dropDataByte d := by decide

/-- Under a nibble at which no opcode is configured the byte is dropped (R162). -/
theorem decodeByte_unassigned {op : Byte} {ch : Channel} {i : Instr} (h : IsNibbleOpcode op) (hu : c.unassigned op)
    (hm : x.mode = .idle ∨ x.mode = .await) (hi : dropChannelByte (op ||| ch.setWidth 8) = i) :
    decodeByte c x (op ||| ch.setWidth 8) = i := by
  obtain ⟨hd, ha, hv⟩ := hu
  rw [decodeByte_nibble h ch hm, leadingByte_nibble h, if_neg hd.symm, if_neg ha.symm, if_neg (fun e => hv e.2.symm), hi]

/-- A byte from 0xF1 on that is not the version opcode is the row of its low nibble (R165). -/
theorem decodeByte_system {b : Byte} {i : Instr} (hm : x.mode = .idle ∨ x.mode = .await) (hv : c.opVersion ≠ b)
    (hb : 0xF1#8 ≤ b) (hi : systemByte (channelOf b) = i) : decodeByte c x b = i := by
  have hlt : ¬ b < 0xF0#8 := by bv_omega
  have hne : b ≠ startSysexByte := by bv_omega
  rw [decodeByte_leading hm (by bv_omega), leadingByte, if_neg hlt, if_neg hne, if_neg (fun e => hv e.2.symm), hi]

/-- Every row that exists and stands in the decoder state is read back from its byte. -/
theorem decodeByte_encodeByte (hv : c.Valid) {i : Instr} (hw : i.WellFormed c) (hs : i.StandsIn c x) :
    decodeByte c x (encodeByte c i) = i := by
  obtain ⟨hDA, hDV, hAV⟩ := opcodes_ne hv
  have hnib : IsNibbleOpcode c.opDigital ∧ IsNibbleOpcode c.opAnalog := ⟨hv.2.1.1, hv.2.1.2.1⟩
  cases i with
  | firstData d =>
    obtain ⟨hm, hr⟩ := hs
    rw [encodeByte, decodeByte_data d hm, awaitDataByte, if_pos hr]
  | secondData d =>
    obtain ⟨hm, hr, hd, ha, hver⟩ := hs
    rw [encodeByte, decodeByte_data d hm, awaitDataByte, if_neg hr, if_neg hd.symm, if_neg ha.symm, if_neg hver.symm]
  | digitalComplete d =>
    obtain ⟨hm, hr, ho⟩ := hs
    rw [encodeByte, decodeByte_data d hm, awaitDataByte, if_neg hr, if_pos ho]
  | analogComplete d =>
    obtain ⟨hm, hr, ho⟩ := hs
    rw [encodeByte, decodeByte_data d hm, awaitDataByte, if_neg hr, ho, if_neg hDA, if_pos rfl]
  | versionComplete d =>
    obtain ⟨hm, hr, ho⟩ := hs
    rw [encodeByte, decodeByte_data d hm, awaitDataByte, if_neg hr, ho, if_neg hDV, if_neg hAV, if_pos rfl]
  | dropDataByte d =>
    have hm : x.mode = .idle := hs
    simp only [encodeByte, decodeByte, hm]
    rw [leadingByte_data hv (dataByte_lt d), dropChannelByte_data]
  | startDigital ch => exact (decodeByte_nibble hnib.1 ch hs).trans (leadingByte_digital hv ch)
  | startAnalog ch => exact (decodeByte_nibble hnib.2 ch hs).trans (leadingByte_analog hv ch)
  | startVersionNibble ch =>
    have hver := hv.2.2.1
    rw [if_pos hw] at hver
    exact (decodeByte_nibble hver.1 ch hs).trans (leadingByte_versionNibble hv hw ch)
  | startVersionFull =>
    have hlt : ¬ c.opVersion < 0x80#8 := fun h => hw (BitVec.lt_trans h (by decide))
    exact (decodeByte_leading hs hlt).trans (leadingByte_versionFull hv hw)
  | startSysex =>
    rw [encodeByte]
    exact decodeByte_leading hs (by decide)
  | dropNibble80 ch | dropNibble90 ch | dropNibbleA0 ch | dropNibbleB0 ch | dropNibbleC0 ch | dropNibbleD0 ch | dropNibbleE0 ch =>
    rw [encodeByte]
    refine decodeByte_unassigned (by decide) hw hs ?_
    clear hw hs
    revert ch
    decide
  | append b =>
    obtain ⟨hm, hc⟩ := hs
    rw [encodeByte, decodeByte_sysex b hm, sysexByte, if_neg hw, if_neg hc]
  | overflow b =>
    obtain ⟨hm, hc⟩ := hs
    rw [encodeByte, decodeByte_sysex b hm, sysexByte, if_neg hw, if_pos hc]
  | finalize =>
    obtain ⟨hm, hr⟩ := hs
    rw [encodeByte, decodeByte_sysex _ hm, sysexByte, if_pos rfl, hr, if_neg Bool.false_ne_true]
  | emitI2c =>
    obtain ⟨hm, hr⟩ := hs
    rw [encodeByte, decodeByte_sysex _ hm, sysexByte, if_pos rfl, hr, if_pos rfl]
  | ignoredHalted b => exact decodeByte_halted b hs
  | _ =>
    rw [encodeByte]
    exact decodeByte_system hs hw (by decide) rfl

end

/-- Settles O2: every row is read back from its one byte, and the bytes behind it are not looked at. -/
theorem decodeOfEncodeIsTheInstruction : Obligations.DecodeOfEncodeIsTheInstruction := by
  intro c x i rest hv hw hs
  rw [encode, List.singleton_append, decode, decodeByte_encodeByte hv hw hs]

/-- Settles O4: two rows of one byte are both what that byte is read as. -/
theorem rowsDoNotOverlapInAState : Obligations.RowsDoNotOverlapInAState := by
  intro c x i j hv hwi hwj hsi hsj he
  have hb : encodeByte c i = encodeByte c j := List.singleton_inj.1 he
  rw [← decodeByte_encodeByte hv hwi hsi, hb, decodeByte_encodeByte hv hwj hsj]

/-! ### From a byte to its row and back -/

/-- The row `i` is a right reading of the byte `b`: it exists, it stands in the decoder state, and `b` is its encoding. -/
structure IsRowOf (c : Config) (x : DecodeCtx) (b : Byte) (i : Instr) : Prop where
  wellFormed : i.WellFormed c
  standsIn : i.StandsIn c x
  encoded : encodeByte c i = b

section
variable {c : Config} {x : DecodeCtx} {b : Byte}

theorem isRowOf_awaitDataByte (hm : x.mode = .await) (hb : b < 0x80#8) : IsRowOf c x b (awaitDataByte c x (dataOf b)) := by
  have he := setWidth_dataOf hb
  unfold awaitDataByte
  split_ifs with hr hd ha hv
  · exact ⟨trivial, ⟨hm, hr⟩, he⟩
  · exact ⟨trivial, ⟨hm, hr, hd⟩, he⟩
  · exact ⟨trivial, ⟨hm, hr, ha⟩, he⟩
  · exact ⟨trivial, ⟨hm, hr, hv⟩, he⟩
  · exact ⟨trivial, ⟨hm, hr, Ne.symm hd, Ne.symm ha, Ne.symm hv⟩, he⟩

theorem isRowOf_sysexByte (hm : x.mode = .sysex) : IsRowOf c x b (sysexByte c x b) := by
  unfold sysexByte
  split_ifs with hb hr hc
  · exact ⟨trivial, ⟨hm, hr⟩, hb.symm⟩
  · exact ⟨trivial, ⟨hm, Bool.eq_false_of_not_eq_true hr⟩, hb.symm⟩
  · exact ⟨hb, ⟨hm, hc⟩, rfl⟩
  · exact ⟨hb, ⟨hm, hc⟩, rfl⟩

/-- A byte below 0xF0 whose nibble is none of a drop row's is a data byte. -/
theorem data_of_no_nibble : ∀ b : Byte, b < 0xF0#8 → nibbleOf b ∉ [0x8#4, 0x9#4, 0xA#4, 0xB#4, 0xC#4, 0xD#4, 0xE#4] →
    b < 0x80#8 := by decide

theorem isRowOf_dropChannelByte (hm : x.mode = .idle ∨ x.mode = .await ∧ ¬ b < 0x80#8) (hb : b < 0xF0#8)
    (hu : c.unassigned (opcodeOf b)) : IsRowOf c x b (dropChannelByte b) := by
  have hx : x.mode = .idle ∨ x.mode = .await := hm.imp_right And.left
  have hrow : ∀ n, nibbleOf b = n →
      c.unassigned (n.setWidth 8 <<< 4) ∧ n.setWidth 8 <<< 4 ||| (channelOf b).setWidth 8 = b := by
    rintro _ rfl
    rw [← opcodeOf_eq_nibble]
    exact ⟨hu, opcodeOf_or_channelOf b⟩
  unfold dropChannelByte
  split_ifs with h8 h9 hA hB hC hD hE
  · exact ⟨(hrow _ h8).1, hx, (hrow _ h8).2⟩
  · exact ⟨(hrow _ h9).1, hx, (hrow _ h9).2⟩
  · exact ⟨(hrow _ hA).1, hx, (hrow _ hA).2⟩
  · exact ⟨(hrow _ hB).1, hx, (hrow _ hB).2⟩
  · exact ⟨(hrow _ hC).1, hx, (hrow _ hC).2⟩
  · exact ⟨(hrow _ hD).1, hx, (hrow _ hD).2⟩
  · exact ⟨(hrow _ hE).1, hx, (hrow _ hE).2⟩
  · have hd := data_of_no_nibble b hb (by simp [h8, h9, hA, hB, hC, hD, hE])
    exact ⟨trivial, hm.resolve_right fun h => h.2 hd, setWidth_dataOf hd⟩

/-- The rows of the low nibbles from 0xF0 on. -/
theorem isRowOf_systemByte (hm : x.mode = .idle ∨ x.mode = .await) :
    ∀ low : BitVec 4, c.opVersion ≠ 0xF0#8 ||| low.setWidth 8 → IsRowOf c x (0xF0#8 ||| low.setWidth 8) (systemByte low) := by
  intro low hv
  obtain ⟨n, rfl⟩ : ∃ n : Fin 16, low = BitVec.ofFin n := ⟨low.toFin, rfl⟩
  fin_cases n
  · exact ⟨trivial, hm, rfl⟩
  all_goals exact ⟨hv, hm, rfl⟩

/-- From 0xF0 on the opcode nibble is 0xF0. -/
theorem system_fields : ∀ b : Byte, ¬ b < 0xF0#8 → 0xF0#8 ||| (channelOf b).setWidth 8 = b := by decide

theorem opcodeOf_lt : ∀ b : Byte, b < 0xF0#8 → opcodeOf b < 0xF0#8 := by decide

theorem isRowOf_leadingByte (hm : x.mode = .idle ∨ x.mode = .await ∧ ¬ b < 0x80#8) : IsRowOf c x b (leadingByte c b) := by
  have hx : x.mode = .idle ∨ x.mode = .await := hm.imp_right And.left
  have he := opcodeOf_or_channelOf b
  unfold leadingByte
  split_ifs with hb hd ha hn hs hf
  · rw [hd] at he
    exact ⟨trivial, hx, he⟩
  · rw [ha] at he
    exact ⟨trivial, hx, he⟩
  · rw [hn.2] at he
    exact ⟨hn.1, hx, he⟩
  · have hver : c.opVersion ≠ opcodeOf b := fun e => hn ⟨by rw [Config.nibbleVersion, e]; exact opcodeOf_lt b hb, e.symm⟩
    exact isRowOf_dropChannelByte hm hb ⟨Ne.symm hd, Ne.symm ha, hver⟩
  · exact ⟨trivial, hx, hs.symm⟩
  · exact ⟨hf.1, hx, hf.2.symm⟩
  · have hver : c.opVersion ≠ b := fun e => hf ⟨by rw [Config.nibbleVersion, e]; exact hb, e.symm⟩
    have h := isRowOf_systemByte (c := c) hx (channelOf b)
    rw [system_fields b hb] at h
    exact h hver

/-- Every byte is rightly read, in every decoder state (R79: no encoding traps). -/
theorem isRowOf_decodeByte (c : Config) (x : DecodeCtx) (b : Byte) : IsRowOf c x b (decodeByte c x b) := by
  unfold decodeByte
  cases hm : x.mode with
  | halted => exact ⟨trivial, hm, rfl⟩
  | sysex => exact isRowOf_sysexByte hm
  | await =>
    dsimp only
    split_ifs with hb
    · exact isRowOf_awaitDataByte hm hb
    · exact isRowOf_leadingByte (.inr ⟨hm, hb⟩)
  | idle => exact isRowOf_leadingByte (.inl hm)

end

/-- Settles O3: the row the decoder answers is a right reading of its byte. -/
theorem everyByteIsOneWellFormedRow : Obligations.EveryByteIsOneWellFormedRow := by
  intro c x b _
  obtain ⟨hw, hs, he⟩ := isRowOf_decodeByte c x b
  exact ⟨_, rfl, hw, hs, congrArg (fun a => [a]) he⟩

/-- Settles O1: the words are read one by one. -/
theorem decoderReadsOpcodeMapWords : Obligations.DecoderReadsOpcodeMapWords := by
  unfold Obligations.DecoderReadsOpcodeMapWords
  exact ⟨rfl, rfl, rfl, rfl, rfl, rfl, rfl, rfl, rfl, rfl, rfl, rfl, rfl, rfl, rfl, rfl⟩

end Sys2Proof.Machine
end

section
/-! SUPPORT. The input of an edge (60_exceptions.md R208), the edge of each input, and what each row gives as a whole next state. -/

namespace Sys2Proof.Machine

/-! ### The input of an edge -/

theorem inputOf_rst {p : Pins} (h : p.rst = true) : inputOf p = .reset p.now := if_pos h

theorem inputOf_rxErr {p : Pins} (hr : p.rst = false) (h : p.rxErr = true) : inputOf p = .transportError := by
  rw [inputOf, hr, if_neg Bool.false_ne_true, if_pos h]

theorem inputOf_rxValid {p : Pins} (hr : p.rst = false) (he : p.rxErr = false) (h : p.rxValid = true) :
    inputOf p = .byte p.rxData := by
  rw [inputOf, hr, he, if_neg Bool.false_ne_true, if_neg Bool.false_ne_true, if_pos h]

theorem inputOf_noInput {p : Pins} (hr : p.rst = false) (he : p.rxErr = false) (h : p.rxValid = false) : inputOf p = .quiet := by
  rw [inputOf, hr, he, h, if_neg Bool.false_ne_true, if_neg Bool.false_ne_true, if_neg Bool.false_ne_true]

/-- Without `rst` an edge is a transport error, a byte or quiet. -/
theorem inputOf_running {p : Pins} (hr : p.rst = false) :
    inputOf p = .transportError ∨ (∃ b, inputOf p = .byte b) ∨ inputOf p = .quiet := by
  cases he : p.rxErr with
  | true => exact .inl (inputOf_rxErr hr he)
  | false =>
    cases hv : p.rxValid with
    | true => exact .inr (.inl ⟨_, inputOf_rxValid hr he hv⟩)
    | false => exact .inr (.inr (inputOf_noInput hr he hv))

/-- Settles O6: one clause per test of the priority. -/
theorem inputPriorityAtOneEdge : Obligations.InputPriorityAtOneEdge :=
  fun _ => ⟨inputOf_rst, inputOf_rxErr, inputOf_rxValid, inputOf_noInput⟩

/-! ### The edge of each input -/

theorem step_of_input {i : Input} {s u : State} (hin : inputOf (pinsNow s) = i) (h : stepOn i s = .next u) :
    step s = .next (nextEdge u) :=
  step_next.2 ⟨u, by rw [hin, h], rfl⟩

theorem step_reset {s : State} (h : (pinsNow s).rst = true) : step s = .next (nextEdge (resetStep (pinsNow s).now s)) :=
  step_of_input (inputOf_rst h) rfl

theorem step_transportError {s : State} (hin : inputOf (pinsNow s) = .transportError) :
    step s = .next (nextEdge (transportError s)) :=
  step_of_input hin rfl

theorem step_quiet {s : State} (hin : inputOf (pinsNow s) = .quiet) : step s = .next (nextEdge (clearEvents s)) :=
  step_of_input hin rfl

theorem readByte_halted {s : State} (b : Byte) (hm : s.mode = .halted) : readByte b s = .ignoredHalted b :=
  decodeByte_halted b hm

theorem exec_ignoredHalted (b : Byte) (s : State) : exec (.ignoredHalted b) s = .next (clearEvents s) := rfl

/-- In HALTED no input but `rst` does anything (60_exceptions.md R202, R206). -/
theorem step_halted {s : State} (hm : s.mode = .halted) (hr : (pinsNow s).rst = false) :
    step s = .next (nextEdge (clearEvents s)) := by
  rcases inputOf_running hr with hin | ⟨b, hin⟩ | hin
  · rw [step_transportError hin, transportError_halted hm]
  · exact step_of_byte hin (by rw [readByte_halted b hm, exec_ignoredHalted])
  · exact step_quiet hin

/-- Settles O5: the decoder's answer is the row that the step performs. -/
theorem stepRunsTheDecodedInstruction : Obligations.StepRunsTheDecodedInstruction := by
  intro s b i rest hr he hv hb hdec _
  have hi : readByte b s = i := by
    simp only [decode, Except.ok.injEq, Prod.mk.injEq] at hdec
    exact hdec.1
  have hin : inputOf (pinsNow s) = .byte b := hb ▸ inputOf_rxValid hr he hv
  rw [step, hin, stepOn, hi]
  cases exec i s <;> rfl

/-- Settles O7: `rst` is the first test of the priority, and the edge is the reset step. -/
theorem resetEdgeSetsEveryField : Obligations.ResetEdgeSetsEveryField := fun _ h => step_reset h

/-- Settles O8: the register files are read entry by entry, the other fields are those of the record. -/
theorem resetLeavesTheResetTable : Obligations.ResetLeavesTheResetTable := by
  refine ⟨rfl, fun c t0 => ?_⟩
  exact ⟨rfl, rfl, rfl, rfl, rfl, rfl, Memory.read_nil, portOf_resetAt c t0, anaOf_resetAt c t0, rfl, rfl, rfl, rfl, rfl, rfl, rfl,
    rfl, Memory.read_nil, rfl⟩

/-- Settles O9: only a block that is not halted raises the fault. -/
theorem transportErrorHaltsPrecisely : Obligations.TransportErrorHaltsPrecisely := by
  intro s hr he
  constructor <;> intro hm <;> rw [step_transportError (inputOf_rxErr hr he)]
  · rw [transportError_running hm]
    rfl
  · rw [transportError_halted hm]
    rfl

/-- Settles O10: the edge is the quiet one. -/
theorem quietEdgeKeepsEveryRegister : Obligations.QuietEdgeKeepsEveryRegister :=
  fun _ hr he hv => step_quiet (inputOf_noInput hr he hv)

/-- Settles O27. -/
theorem ignoredByteKeepsEveryRegister : Obligations.IgnoredByteKeepsEveryRegister := exec_ignoredHalted

/-- Settles O43: HALTED answers every other input alike, and reset leaves the state of R40. -/
theorem haltedIsLeftOnlyByReset : Obligations.HaltedIsLeftOnlyByReset :=
  fun _ hm => ⟨step_halted hm, fun hr => ⟨_, step_reset hr, rfl, rfl⟩⟩

/-! ### Data bytes in AWAIT -/

theorem exec_digitalComplete_halts {d : Data7} {s : State} (h : s.cfg.numPorts ≤ s.pCh.toNat) :
    exec (.digitalComplete d) s = .next (raiseFault .digRange s.pCh (consumeByte s)) :=
  congrArg Host.Outcome.next (digitalBranch_halts h)

theorem exec_analogComplete_halts {d : Data7} {s : State} (h : s.cfg.numAnalog ≤ s.pCh.toNat) :
    exec (.analogComplete d) s = .next (raiseFault .anaRange s.pCh (consumeByte s)) :=
  congrArg Host.Outcome.next (analogBranch_halts h)

theorem exec_versionComplete (d : Data7) (s : State) :
    exec (.versionComplete d) s = .next (setVersion s.d0 d (finishCommand (consumeByte s))) := rfl

/-- Settles O11. -/
theorem firstDataStoresTheByte : Obligations.FirstDataStoresTheByte := exec_firstData

/-- Settles O13: the range check stands before the write. -/
theorem digitalOutOfRangeHalts : Obligations.DigitalOutOfRangeHalts := fun _ _ h => exec_digitalComplete_halts h

/-- Settles O15: the range check stands before the write. -/
theorem analogOutOfRangeHalts : Obligations.AnalogOutOfRangeHalts := fun _ _ h => exec_analogComplete_halts h

/-- Settles O16. -/
theorem versionCompleteWritesBothFields : Obligations.VersionCompleteWritesBothFields := exec_versionComplete

section
variable {d : Data7} {s : State}

theorem exec_secondData_digital (h : s.pOp = s.cfg.opDigital) : exec (.secondData d) s = exec (.digitalComplete d) s := if_pos h

theorem exec_secondData_analog (hv : s.cfg.Valid) (h : s.pOp = s.cfg.opAnalog) :
    exec (.secondData d) s = exec (.analogComplete d) s := by
  obtain ⟨hne, -⟩ := opcodes_ne hv
  exact (if_neg (h ▸ hne)).trans (if_pos h)

theorem exec_secondData_version (hv : s.cfg.Valid) (h : s.pOp = s.cfg.opVersion) :
    exec (.secondData d) s = exec (.versionComplete d) s := by
  obtain ⟨-, hd, ha⟩ := opcodes_ne hv
  exact (if_neg (h ▸ hd)).trans ((if_neg (h ▸ ha)).trans (if_pos h))

theorem exec_secondData_unassigned (h : s.cfg.unassigned s.pOp) :
    exec (.secondData d) s = .next (finishCommand (consumeByte s)) := by
  obtain ⟨hd, ha, hv⟩ := h
  exact (if_neg hd.symm).trans ((if_neg ha.symm).trans (if_neg hv.symm))

/-- The command has ended, and no fault was raised. -/
def CommandEnded (s t : State) : Prop := t.mode = .idle ∧ t.rem = 0#2 ∧ t.fault = s.fault

/-- On a channel below both counts the second data byte ends the command, whatever it completes. -/
theorem exec_secondData_completes (d : Data7) (s : State) (hv : s.cfg.Valid) : ∃ t, exec (.secondData d) s = .next t ∧
    (s.pCh.toNat < s.cfg.numPorts → s.pCh.toNat < s.cfg.numAnalog → CommandEnded s t) := by
  by_cases hd : s.pOp = s.cfg.opDigital
  · refine ⟨digitalBranch d s, exec_secondData_digital hd, fun hp _ => ?_⟩
    rw [digitalBranch_writes hp]
    exact ⟨rfl, rfl, rfl⟩
  by_cases ha : s.pOp = s.cfg.opAnalog
  · refine ⟨analogBranch d s, exec_secondData_analog hv ha, fun _ hp => ?_⟩
    rw [analogBranch_writes hp]
    exact ⟨rfl, rfl, rfl⟩
  by_cases hver : s.pOp = s.cfg.opVersion
  · exact ⟨_, exec_secondData_version hv hver, fun _ _ => ⟨rfl, rfl, rfl⟩⟩
  · exact ⟨_, exec_secondData_unassigned ⟨Ne.symm hd, Ne.symm ha, Ne.symm hver⟩, fun _ _ => ⟨rfl, rfl, rfl⟩⟩

end

/-- Settles O17: the multiplexer's tests are told apart by the three opcodes of a valid configuration being different. -/
theorem secondDataIsTheSelectedCompletion : Obligations.SecondDataIsTheSelectedCompletion :=
  fun d s hv => ⟨exec_secondData_digital, exec_secondData_analog hv, exec_secondData_version hv, exec_secondData_unassigned,
    exec_secondData_completes d s hv⟩

/-! ### Leading bytes -/

/-- Settles O18: every row of the list is a drop. -/
theorem dropsWriteOnlyTheTimestamp : Obligations.DropsWriteOnlyTheTimestamp := by
  intro d ch s i hi
  fin_cases hi <;> rfl

/-- Settles O19. -/
theorem startsOpenACommand : Obligations.StartsOpenACommand := fun _ _ => ⟨rfl, rfl, rfl, rfl⟩

theorem exec_startSysex (s : State) : exec .startSysex s = .next (openSysex (consumeByte s)) := rfl

/-- Settles O20. -/
theorem startSysexOpensAnEmptyBody : Obligations.StartSysexOpensAnEmptyBody := exec_startSysex

theorem readByte_startSysex {s : State} (hm : s.mode = .idle ∨ s.mode = .await) : readByte 0xF0#8 s = .startSysex :=
  decodeByte_leading hm (by decide)

theorem step_startSysex {s : State} (hin : inputOf (pinsNow s) = .byte 0xF0#8) (hm : s.mode = .idle ∨ s.mode = .await) :
    step s = .next (nextEdge (openSysex (consumeByte s))) :=
  step_of_byte hin (by rw [readByte_startSysex hm, exec_startSysex])

/-- Settles O31: 0xF0 is tested before the version opcode, so it is read as START_SYSEX in every configuration. -/
theorem startSysexByteOpensASysex : Obligations.StartSysexByteOpensASysex := fun _ _ hin hm => step_startSysex hin hm

/-! ### The bytes of a body -/

/-- Settles O21: while CNT does not wrap, only the entry at CNT is written. -/
theorem appendStoresTheByte : Obligations.AppendStoresTheByte := by
  intro b s hv hroom hw
  have hc : s.cnt.toNat < 255 := hroom.trans_le hv.1.2.2
  refine ⟨_, exec_append hroom, rfl, pushBody_cnt_toNat b hc, ?_, fun i hi => ?_, fun i hi => ?_⟩
  · exact (accByte_pushBody (s := consumeByte s) b hw hc le_rfl).trans (if_pos rfl)
  · exact (accByte_pushBody (s := consumeByte s) b hw hc hi.le).trans (if_neg hi.ne)
  · exact Memory.read_write_other b hw hi

/-- Settles O22: the row tests its index first. -/
theorem appendStopsAtTheCapacity : Obligations.AppendStopsAtTheCapacity := fun _ _ h => if_neg (Nat.not_lt.2 h)

theorem exec_overflow (b : Byte) (s : State) : exec (.overflow b) s = .next (closeSysex (consumeByte s)) := rfl

/-- Settles O23. -/
theorem overflowDiscardsTheBody : Obligations.OverflowDiscardsTheBody := exec_overflow

theorem readByte_overflow {b : Byte} {s : State} (hm : s.mode = .sysex) (hb : b ≠ endSysexByte)
    (hc : s.cnt.toNat = s.cfg.sysexCap) : readByte b s = .overflow b := by
  simp only [readByte, decodeByte, decodeCtx, hm, sysexByte, if_neg hb, if_pos hc]

theorem step_overflow {b : Byte} {s : State} (hin : inputOf (pinsNow s) = .byte b) (hm : s.mode = .sysex)
    (hb : b ≠ endSysexByte) (hc : s.cnt.toNat = s.cfg.sysexCap) : step s = .next (nextEdge (closeSysex (consumeByte s))) :=
  step_of_byte hin (by rw [readByte_overflow hm hb hc, exec_overflow])

/-- Settles O34: the byte is read as OVERFLOW. -/
theorem bodyByteOverflowsSilently : Obligations.BodyByteOverflowsSilently := fun _ _ hin hm hb hc => step_overflow hin hm hb hc

end Sys2Proof.Machine
end

section
/-! SUPPORT. The end of a sysex (40_sysex.md R104 to R108): which frame is an accepted reply, what its END_SYSEX leaves, and what any other
END_SYSEX leaves. -/

namespace Sys2Proof.Machine

/-! ### Values -/

/-- The payload byte of a pair, as a number (R107). -/
theorem lowByte_eq_ofNat (v : Half) : lowByte v = BitVec.ofNat 8 (v.toNat % 256) := by
  apply BitVec.eq_of_toNat_eq
  simp [lowByte]

theorem joinBytes_getLsbD (low high : Byte) (i : Nat) :
    (joinBytes low high).getLsbD i = (low.getLsbD i || (decide (i < 16) && !decide (i < 7) && high.getLsbD (i - 7))) := by
  simp only [joinBytes, BitVec.getLsbD_or, BitVec.getLsbD_setWidth, BitVec.getLsbD_shiftLeft]
  by_cases h : i < 16
  · simp [h, show i - 7 < 16 by omega]
  · simp [h, BitVec.getLsbD_of_ge low i (by omega)]

/-- Settles O28: of the second byte only bit 0 reaches the low byte, as its bit 7. -/
theorem payloadTruncationKeepsEightBits : Obligations.PayloadTruncationKeepsEightBits := by
  refine ⟨fun low high _ _ => BitVec.eq_of_getLsbD_eq fun i hi => ?_, by decide⟩
  rw [lowByte_getLsbD _ hi, joinBytes_getLsbD, BitVec.getLsbD_or, BitVec.getLsbD_shiftLeft]
  rcases Nat.lt_or_eq_of_le (Nat.le_of_lt_succ hi) with h7 | rfl
  · simp [h7]
  · simp

/-! ### The validator and the two ends -/

/-- R105, R106: the count first, then the subtype. -/
theorem replyValid_iff {s : State} : replyValid s = true ↔ s.cfg.replyMin < s.cnt.toNat ∧ accByte s 0 = 0x77#8 := by
  simp [replyValid]

/-- One reply is emitted and latched, and the accumulator is discarded (R104, R108). -/
def commitReply (a r : Half) (p : List Byte) (s : State) : State :=
  closeSysex (latchReply a r p (emitEvents .i2c [.i2cReceived a r p] (consumeByte s)))

theorem commitReply_eq (a r : Half) (p : List Byte) (s : State) :
    commitReply a r p s = { s with
      i2cAddr := a
      i2cReg := r
      i2cLen := BitVec.ofNat 8 p.length
      i2cPl := (commitReply a r p s).i2cPl
      mode := .idle
      cnt := 0#8
      acc := []
      lastAct := timeNow s
      evt := .i2c
      events := [.i2cReceived a r p] } := by
  simp only [commitReply, closeSysex, emptyBody, latchReply, emitEvents, consumeByte, clearEvents]

/-- The latch after an accepted reply holds its payload. -/
theorem latchedPayload_commitReply (a r : Half) {p : List Byte} (s : State) (h : p.length < 256) :
    latchedPayload (commitReply a r p s) = p :=
  latchedPayload_latchReply a r _ h

/-- What an accepted reply leaves (R107). -/
def acceptedReply (s : State) : State := commitReply (pairValue s 0) (pairValue s 1) (replyPayload s) s

theorem latchedPayload_acceptedReply (s : State) : latchedPayload (acceptedReply s) = replyPayload s :=
  latchedPayload_commitReply _ _ s (replyPayload_length_lt s)

section
variable (s : State)

@[simp] theorem acceptedReply_mode : (acceptedReply s).mode = .idle := by simp [acceptedReply, commitReply]
@[simp] theorem acceptedReply_cnt : (acceptedReply s).cnt = 0#8 := by simp [acceptedReply, commitReply]
@[simp] theorem acceptedReply_fault : (acceptedReply s).fault = s.fault := by simp [acceptedReply, commitReply]
@[simp] theorem acceptedReply_port : (acceptedReply s).port = s.port := by simp [acceptedReply, commitReply]
@[simp] theorem acceptedReply_ana : (acceptedReply s).ana = s.ana := by simp [acceptedReply, commitReply]
@[simp] theorem acceptedReply_verMajor : (acceptedReply s).verMajor = s.verMajor := by simp [acceptedReply, commitReply]
@[simp] theorem acceptedReply_verMinor : (acceptedReply s).verMinor = s.verMinor := by simp [acceptedReply, commitReply]
@[simp] theorem acceptedReply_i2cAddr : (acceptedReply s).i2cAddr = pairValue s 0 := by simp [acceptedReply, commitReply]
@[simp] theorem acceptedReply_i2cReg : (acceptedReply s).i2cReg = pairValue s 1 := by simp [acceptedReply, commitReply]
@[simp] theorem acceptedReply_evt : (acceptedReply s).evt = .i2c := by simp [acceptedReply, commitReply]
@[simp] theorem acceptedReply_events :
    (acceptedReply s).events = [.i2cReceived (pairValue s 0) (pairValue s 1) (replyPayload s)] := by simp [acceptedReply, commitReply]

end

theorem exec_emitI2c {s : State} (h : s.cnt.toNat ≤ s.cfg.sysexCap) : exec .emitI2c s = .next (acceptedReply s) :=
  emitReply_next.2 ⟨replyPayload_le_plMax h, rfl⟩

theorem exec_finalize_reply {s : State} (hv : replyValid s = true) : exec .finalize s = exec .emitI2c s := if_pos hv

theorem exec_finalize_discard {s : State} (hv : ¬ replyValid s = true) : exec .finalize s = .next (closeSysex (consumeByte s)) :=
  if_neg hv

/-- The payload is read off the latch alone: the free values lie behind it. -/
theorem latchedPayload_congr {s t : State} (hlen : t.i2cLen = s.i2cLen) (hpl : t.i2cPl = s.i2cPl) :
    latchedPayload t = latchedPayload s := by
  rw [latchedPayload, latchedPayload, hlen]
  refine List.map_congr_left fun j hj => ?_
  have hlt : j < s.i2cLen.toNat := List.mem_range.1 hj
  rw [payloadByte, payloadByte, hlen, hpl, if_pos hlt, if_pos hlt]

/-- Settles O24: either premise makes one test of the validator fail. -/
theorem finalizeDiscardsAnInvalidFrame : Obligations.FinalizeDiscardsAnInvalidFrame := by
  intro s h
  refine exec_finalize_discard fun hv => ?_
  obtain ⟨hlen, hsub⟩ := replyValid_iff.1 hv
  exact h.elim (Nat.not_le.2 hlen) (fun hne => hne hsub)

/-- Settles O26: both tests of the validator hold, and the payload fits. -/
theorem finalizeEmitsAValidFrame : Obligations.FinalizeEmitsAValidFrame := by
  intro s hcap hlen hsub
  have he := exec_finalize_reply (replyValid_iff.2 ⟨hlen, hsub⟩)
  exact ⟨he, acceptedReply s, he.trans (exec_emitI2c hcap), by simp⟩

/-- Settles O25: `val` is the model's pair value, and the payload fits the array and the length register. -/
theorem emitI2cLatchesTheReply : Obligations.EmitI2cLatchesTheReply := by
  intro s hcap val payload
  have hp : replyPayload s = payload := List.map_congr_left fun j _ => lowByte_eq_ofNat (pairValue s (j + 2))
  have hlen : payload.length = (s.cnt.toNat - 1) / 2 - 2 := by rw [← hp, replyPayload_length, pairCount]
  refine ⟨acceptedReply s, exec_emitI2c hcap, ?_, (latchedPayload_acceptedReply s).trans hp⟩
  rw [← hlen, acceptedReply, hp]
  exact commitReply_eq (val 0) (val 1) payload s

section
variable {s : State}

theorem readByte_endSysex (hm : s.mode = .sysex) :
    readByte 0xF7#8 s = if replyValid s = true then .emitI2c else .finalize := by
  simp only [readByte, decodeByte, decodeCtx, hm, sysexByte, if_pos]

theorem exec_endSysex_reply (hm : s.mode = .sysex) (hcap : s.cnt.toNat ≤ s.cfg.sysexCap) (hv : replyValid s = true) :
    exec (readByte 0xF7#8 s) s = .next (acceptedReply s) := by
  rw [readByte_endSysex hm, if_pos hv, exec_emitI2c hcap]

theorem exec_endSysex_discard (hm : s.mode = .sysex) (hv : ¬ replyValid s = true) :
    exec (readByte 0xF7#8 s) s = .next (closeSysex (consumeByte s)) := by
  rw [readByte_endSysex hm, if_neg hv, exec_finalize_discard hv]

end

/-- Settles O35: the validator decides between the two ends. -/
theorem endMarkerFinalizesTheSysex : Obligations.EndMarkerFinalizesTheSysex := by
  intro s hin hm hcap
  rw [← replyValid_iff]
  by_cases hv : replyValid s = true
  · refine ⟨nextEdge (acceptedReply s), step_of_byte hin (exec_endSysex_reply hm hcap hv), ?_⟩
    simp [hv]
  · refine ⟨nextEdge (closeSysex (consumeByte s)), step_of_byte hin (exec_endSysex_discard hm hv), ?_⟩
    simp [hv]

end Sys2Proof.Machine
end

section
/-! SUPPORT. The output ports (10_state.md R36, R38). -/

namespace Sys2Proof.Machine

/-- The codes of R20. -/
theorem modeCode_iff (m : Mode) : (modeCode m = 0#2 ↔ m = .idle) ∧ (modeCode m = 1#2 ↔ m = .await) ∧
    (modeCode m = 2#2 ↔ m = .sysex) ∧ (modeCode m = 3#2 ↔ m = .halted) := by
  cases m <;> decide

/-- The codes of R29. -/
theorem causeCode_iff (c : Cause) : (causeCode c = 0#2 ↔ c = .none) ∧ (causeCode c = 1#2 ↔ c = .transport) ∧
    (causeCode c = 2#2 ↔ c = .digRange) ∧ (causeCode c = 3#2 ↔ c = .anaRange) := by
  cases c <;> decide

/-- Settles O49: the ports are fields of the state, and the two codes tell every mode and every cause apart. -/
theorem outputPortsShowTheRegisters : Obligations.OutputPortsShowTheRegisters := by
  intro s
  obtain ⟨hidle, hawait, hsysex, hhalted⟩ := modeCode_iff s.mode
  refine ⟨by simp [outputs], rfl, rfl, rfl, rfl, rfl, rfl, rfl, rfl, rfl, fun h => if_pos h, hidle, hawait, hsysex, hhalted, ?_⟩
  exact causeCode_iff s.fault

/-- Settles O50: no register past the board was ever written. -/
theorem readPortsBeyondTheBoardGiveZero : Obligations.ReadPortsBeyondTheBoardGiveZero :=
  fun _ h => ⟨h.portUnused _, h.anaUnused _⟩

end Sys2Proof.Machine
end

section
/-! SUPPORT. The invariant (10_state.md R41): one lemma per named update, then one per way a step can act. -/

namespace Sys2Proof.Machine

/-! ### Updates -/

theorem Inv.clearEvents {s : State} (h : Inv s) : Inv (clearEvents s) := { h with }

theorem Inv.nextEdge {s : State} (h : Inv s) : Inv (nextEdge s) := { h with }

theorem Inv.emitEvents {s : State} (w : EventWord) (es : List Event) (h : Inv s) : Inv (emitEvents w es s) := { h with }

theorem Inv.setVersion {s : State} (major minor : Data7) (h : Inv s) : Inv (setVersion major minor s) := { h with }

theorem Inv.consumeByte {s : State} (h : Inv s) : Inv (consumeByte s) := { h with timeWidth := timeNow_lt s }

/-- A fault is raised with a cause, and with channel 0 where the cause is not a range cause. -/
theorem Inv.raiseFault {s : State} {c : Cause} {ch : Channel} (hc : c ≠ .none) (hch : c = .transport → ch = 0#4) (h : Inv s) :
    Inv (raiseFault c ch s) :=
  { h with
    awaitRem := by simp
    awaitOp := by simp
    restEmpty := by simp
    haltFault := by simp [hc]
    faultChannel := by simpa [hc] using hch }

/-- A mode other than HALTED may be entered where no fault was raised. -/
theorem Inv.fault_none {s : State} (h : Inv s) (hm : s.mode ≠ .halted) : s.fault = .none :=
  not_not.1 (mt h.haltFault.2 hm)

theorem Inv.storeFirst {s : State} (d : Data7) (h : Inv s) : Inv (storeFirst d s) :=
  { h with awaitRem := fun _ => .inl rfl }

theorem Inv.finishCommand {s : State} (h : Inv s) (hm : s.mode = .await) : Inv (finishCommand s) :=
  { h with
    awaitRem := by simp
    awaitOp := by simp
    restEmpty := fun _ => h.restEmpty (.inr hm)
    haltFault := by simp [h.fault_none (by simp [hm])] }

theorem Inv.startCommand {s : State} {op : Byte} (ch : Channel) (h : Inv s) (hm : s.mode = .idle ∨ s.mode = .await)
    (hop : op = s.cfg.opDigital ∨ op = s.cfg.opAnalog ∨ op = s.cfg.opVersion) : Inv (startCommand op ch s) :=
  { h with
    awaitRem := fun _ => .inr rfl
    awaitOp := fun _ => hop
    restEmpty := fun _ => h.restEmpty hm
    haltFault := by simp [h.fault_none (by rcases hm with hm | hm <;> simp [hm])] }

theorem Inv.openSysex {s : State} (h : Inv s) (hm : s.mode ≠ .halted) : Inv (openSysex s) :=
  { h with
    awaitRem := by simp
    awaitOp := by simp
    restEmpty := by simp
    countCap := by simp
    haltFault := by simp [h.fault_none hm]
    accWf := Memory.wf_nil
    accLive := by simp }

theorem Inv.closeSysex {s : State} (h : Inv s) (hm : s.mode ≠ .halted) : Inv (closeSysex s) :=
  { h with
    awaitRem := by simp
    awaitOp := by simp
    restEmpty := by simp
    countCap := by simp
    haltFault := by simp [h.fault_none hm]
    accWf := Memory.wf_nil
    accLive := by simp }

theorem Inv.pushBody {s : State} (b : Byte) (h : Inv s) (hm : s.mode = .sysex) (hc : s.cnt.toNat < s.cfg.sysexCap) :
    Inv (pushBody b s) := by
  have hcnt := pushBody_cnt_toNat b (hc.trans_le h.cfgValid.1.2.2)
  exact
    { h with
      restEmpty := by simp [hm]
      countCap := by rw [hcnt]; exact hc
      accWf := Memory.write_wf _ b h.accWf
      accLive := fun c hmem => by
        rw [hcnt]
        rcases Memory.mem_write hmem with hold | ⟨rfl, -⟩
        · exact (h.accLive c hold).trans (Nat.lt_succ_self _)
        · exact Nat.lt_succ_self _ }

theorem Inv.setPort {s : State} {ch : Channel} {v : Half} (h : Inv s) (hch : ch.toNat < s.cfg.numPorts) (hv : v.toNat < 0x4000) :
    Inv (setPort ch v s) :=
  { h with
    portTop := fun c => by
      rw [portOf_setPort]
      split
      · exact hv
      · exact h.portTop c
    portUnused := fun c hc => by
      have hne : c ≠ ch := by
        rintro rfl
        exact absurd hc (Nat.not_le.2 hch)
      rw [portOf_setPort, if_neg hne]
      exact h.portUnused c hc }

theorem Inv.setAna {s : State} {ch : Channel} {v : Half} (h : Inv s) (hch : ch.toNat < s.cfg.numAnalog) (hv : v.toNat < 0x4000) :
    Inv (setAna ch v s) :=
  { h with
    anaTop := fun c => by
      rw [anaOf_setAna]
      split
      · exact hv
      · exact h.anaTop c
    anaUnused := fun c hc => by
      have hne : c ≠ ch := by
        rintro rfl
        exact absurd hc (Nat.not_le.2 hch)
      rw [anaOf_setAna, if_neg hne]
      exact h.anaUnused c hc }

theorem Inv.latchReply {s : State} {p : List Byte} (a r : Half) (h : Inv s) (hp : p.length ≤ s.cfg.plMax) :
    Inv (latchReply a r p s) := by
  have hlen : (BitVec.ofNat 8 p.length).toNat = p.length := by
    obtain ⟨⟨-, -, hcap⟩, -⟩ := h.cfgValid
    rw [Config.plMax] at hp
    exact Nat.mod_eq_of_lt (by omega)
  exact
    { h with
      latchLen := hlen.trans_le hp
      payloadWf := Memory.ofBytes_wf p 0
      payloadLive := fun c hc => by
        rw [latchReply_i2cLen, hlen]
        simpa using (Memory.mem_ofBytes hc).2 }

/-! ### Reset and the step -/

theorem inv_resetAt {c : Config} (hv : c.Valid) (t0 : Nat) : Inv (State.resetAt c t0) where
  cfgValid := hv
  awaitRem := by simp
  awaitOp := by simp
  restEmpty := by simp
  countCap := by simp
  portTop := by simp
  anaTop := by simp
  haltFault := by simp
  faultChannel := by simp
  latchLen := by simp
  portUnused := by simp
  anaUnused := by simp
  accWf := Memory.wf_nil
  accLive := by simp
  payloadWf := Memory.wf_nil
  payloadLive := by simp
  timeWidth := Nat.mod_lt _ (Nat.two_pow_pos _)

/-- Settles O37: every register is 0, and the block is in IDLE without a fault. -/
theorem resetMeetsTheInvariant : Obligations.ResetMeetsTheInvariant := fun _ t0 hv => inv_resetAt hv t0

theorem Inv.resetStep {s : State} (t0 : Nat) (h : Inv s) : Inv (resetStep t0 s) := { inv_resetAt h.cfgValid t0 with }

theorem Inv.transportError {s : State} (h : Inv s) : Inv (transportError s) := by
  by_cases hm : s.mode = .halted
  · rw [transportError_halted hm]
    exact h.clearEvents
  · rw [transportError_running hm]
    exact h.clearEvents.raiseFault (by decide) (fun _ => rfl)

theorem Inv.digitalBranch {s : State} (d : Data7) (h : Inv s) (hm : s.mode = .await) : Inv (digitalBranch d s) := by
  rcases Nat.lt_or_ge s.pCh.toNat s.cfg.numPorts with hc | hc
  · rw [digitalBranch_writes hc]
    exact ((h.consumeByte.finishCommand hm).setPort hc (joinData_lt _ _)).emitEvents _ _
  · rw [digitalBranch_halts hc]
    exact h.consumeByte.raiseFault (by decide) nofun

theorem Inv.analogBranch {s : State} (d : Data7) (h : Inv s) (hm : s.mode = .await) : Inv (analogBranch d s) := by
  rcases Nat.lt_or_ge s.pCh.toNat s.cfg.numAnalog with hc | hc
  · rw [analogBranch_writes hc]
    exact ((h.consumeByte.finishCommand hm).setAna hc (joinData_lt _ _)).emitEvents _ _
  · rw [analogBranch_halts hc]
    exact h.consumeByte.raiseFault (by decide) nofun

theorem ByteEffect.keeps_inv {b : Byte} {s t : State} (h : Inv s) (e : ByteEffect b s t) : Inv t := by
  cases e with
  | ignored => exact h.clearEvents
  | append hm _ hc => exact h.consumeByte.pushBody b hm hc
  | overflow hm => exact h.consumeByte.closeSysex (by simp [hm])
  | discard hm => exact h.consumeByte.closeSysex (by simp [hm])
  | reply hm _ _ hl => exact ((h.consumeByte.emitEvents _ _).latchReply _ _ hl).closeSysex (by simp [hm])
  | first => exact h.consumeByte.storeFirst _
  | digital hm => exact h.digitalBranch _ hm
  | analog hm => exact h.analogBranch _ hm
  | version hm => exact (h.consumeByte.finishCommand hm).setVersion _ _
  | noTarget hm => exact h.consumeByte.finishCommand hm
  | start hm op ch ho => exact h.consumeByte.startCommand ch (hm.imp_right And.left) ho
  | openSysex hm => exact h.consumeByte.openSysex (by rcases hm with hm | ⟨hm, -⟩ <;> simp [hm])
  | drop => exact h.consumeByte

/-- Settles O36: reset, the transport error, each effect of a byte, and the quiet edge keep the invariant. -/
theorem everyStepKeepsTheInvariant : Obligations.EveryStepKeepsTheInvariant := by
  intro s t h hstep
  obtain ⟨u, hu, rfl⟩ := step_next.1 hstep
  rcases stepOn_next hu with ⟨t0, -, rfl⟩ | ⟨-, rfl⟩ | ⟨b, -, e⟩ | ⟨-, rfl⟩
  · exact (h.resetStep t0).nextEdge
  · exact h.transportError.nextEdge
  · exact (e.keeps_inv h).nextEdge
  · exact h.clearEvents.nextEdge

/-! ### No stop -/

/-- A row that stands in the decoder state completes, while CNT is within the capacity. -/
theorem exec_completes {i : Instr} {s : State} (hcap : s.cnt.toNat ≤ s.cfg.sysexCap) (hi : i.StandsIn s.cfg (decodeCtx s)) :
    ∃ t, exec i s = .next t := by
  cases i with
  | append b =>
    obtain ⟨-, hne⟩ := hi
    exact ⟨_, exec_append (lt_of_le_of_ne hcap hne)⟩
  | finalize =>
    obtain ⟨-, hv⟩ := hi
    exact ⟨_, exec_finalize_discard (ne_true_of_eq_false hv)⟩
  | emitI2c => exact ⟨_, exec_emitI2c hcap⟩
  | secondData d =>
    obtain ⟨-, -, hu⟩ := hi
    exact ⟨_, exec_secondData_unassigned hu⟩
  | _ => exact ⟨_, rfl⟩

/-- Settles O38: the row a byte is read as stands in the decoder state, and every such row completes. -/
theorem noStopUnderTheInvariant : Obligations.NoStopUnderTheInvariant := by
  intro s h
  cases hin : inputOf (pinsNow s) with
  | byte b =>
    obtain ⟨t, ht⟩ := exec_completes h.countCap (isRowOf_decodeByte s.cfg (decodeCtx s) b).standsIn
    exact ⟨_, step_of_byte hin ht⟩
  | _ => exact ⟨_, step_of_input hin rfl⟩

end Sys2Proof.Machine
end

section
/-! SUPPORT. What a step leaves alone: the frames of the operations with branches, and the only step that changes each register. -/

namespace Sys2Proof.Machine

/-! ### Frames -/

section
variable (d : Data7) (s : State)

@[simp] theorem digitalBranch_cfg : (digitalBranch d s).cfg = s.cfg := by rw [digitalBranch]; split <;> rfl
@[simp] theorem digitalBranch_ana : (digitalBranch d s).ana = s.ana := by rw [digitalBranch]; split <;> rfl
@[simp] theorem digitalBranch_verMajor : (digitalBranch d s).verMajor = s.verMajor := by rw [digitalBranch]; split <;> rfl
@[simp] theorem digitalBranch_verMinor : (digitalBranch d s).verMinor = s.verMinor := by rw [digitalBranch]; split <;> rfl
@[simp] theorem digitalBranch_i2cAddr : (digitalBranch d s).i2cAddr = s.i2cAddr := by rw [digitalBranch]; split <;> rfl
@[simp] theorem digitalBranch_i2cReg : (digitalBranch d s).i2cReg = s.i2cReg := by rw [digitalBranch]; split <;> rfl
@[simp] theorem digitalBranch_i2cLen : (digitalBranch d s).i2cLen = s.i2cLen := by rw [digitalBranch]; split <;> rfl
@[simp] theorem digitalBranch_i2cPl : (digitalBranch d s).i2cPl = s.i2cPl := by rw [digitalBranch]; split <;> rfl
@[simp] theorem digitalBranch_lastAct : (digitalBranch d s).lastAct = timeNow s := by rw [digitalBranch]; split <;> rfl

@[simp] theorem analogBranch_cfg : (analogBranch d s).cfg = s.cfg := by rw [analogBranch]; split <;> rfl
@[simp] theorem analogBranch_port : (analogBranch d s).port = s.port := by rw [analogBranch]; split <;> rfl
@[simp] theorem analogBranch_verMajor : (analogBranch d s).verMajor = s.verMajor := by rw [analogBranch]; split <;> rfl
@[simp] theorem analogBranch_verMinor : (analogBranch d s).verMinor = s.verMinor := by rw [analogBranch]; split <;> rfl
@[simp] theorem analogBranch_i2cAddr : (analogBranch d s).i2cAddr = s.i2cAddr := by rw [analogBranch]; split <;> rfl
@[simp] theorem analogBranch_i2cReg : (analogBranch d s).i2cReg = s.i2cReg := by rw [analogBranch]; split <;> rfl
@[simp] theorem analogBranch_i2cLen : (analogBranch d s).i2cLen = s.i2cLen := by rw [analogBranch]; split <;> rfl
@[simp] theorem analogBranch_i2cPl : (analogBranch d s).i2cPl = s.i2cPl := by rw [analogBranch]; split <;> rfl
@[simp] theorem analogBranch_lastAct : (analogBranch d s).lastAct = timeNow s := by rw [analogBranch]; split <;> rfl

end

/-- A transport error writes MODE and the fault registers, and clears the events. -/
theorem transportError_frame (s : State) : ∃ m f c,
    transportError s = { s with mode := m, fault := f, faultCh := c, evt := .none, events := [] } := by
  by_cases hm : s.mode = .halted
  · exact ⟨_, _, _, transportError_halted hm⟩
  · exact ⟨_, _, _, transportError_running hm⟩

/-! ### The configuration and the timestamp -/

theorem ByteEffect.cfg_eq {b : Byte} {s t : State} (e : ByteEffect b s t) : t.cfg = s.cfg := by
  cases e <;> simp [versionBranch]

/-- Settles O46: no operation of the model writes the configuration. -/
theorem noStepChangesTheConfiguration : Obligations.NoStepChangesTheConfiguration := by
  intro s t hstep
  obtain ⟨u, hu, rfl⟩ := step_next.1 hstep
  rcases stepOn_next hu with ⟨t0, -, rfl⟩ | ⟨-, rfl⟩ | ⟨b, -, e⟩ | ⟨-, rfl⟩
  · rfl
  · obtain ⟨_, _, _, he⟩ := transportError_frame s
    rw [he]
    rfl
  · exact e.cfg_eq
  · rfl

/-- A byte offered in HALTED is not consumed, and every other byte writes the timestamp (R81). -/
theorem ByteEffect.lastAct_eq {b : Byte} {s t : State} (e : ByteEffect b s t) :
    t.lastAct = if s.mode = .halted then s.lastAct else timeNow s := by
  cases e with
  | ignored hm => exact (if_pos hm).symm
  | start hm | openSysex hm | drop hm => rcases hm with hm | ⟨hm, -⟩ <;> simp [hm]
  | append hm | overflow hm | discard hm | reply hm | first hm | digital hm | analog hm | version hm
  | noTarget hm => simp [hm, versionBranch]

/-- Settles O39: reset loads the timestamp, a consumed byte writes it, and a transport error carries it. -/
theorem timestampFollowsConsumedBytes : Obligations.TimestampFollowsConsumedBytes := by
  intro s t hstep
  obtain ⟨u, hu, rfl⟩ := step_next.1 hstep
  rcases stepOn_next hu with ⟨t0, hin, rfl⟩ | ⟨hin, rfl⟩ | ⟨b, hin, e⟩ | ⟨hin, rfl⟩ <;> rw [hin]
  · rfl
  · obtain ⟨_, _, _, he⟩ := transportError_frame s
    rw [he]
    rfl
  · exact e.lastAct_eq
  · rfl

/-! ### The only step that changes a register -/

/-- What a step without reset can do, by its input. -/
theorem step_running {s t : State} (hr : (pinsNow s).rst = false) (h : step s = .next t) : ∃ u, t = nextEdge u ∧
    ((inputOf (pinsNow s) = .transportError ∧ u = transportError s) ∨
      (∃ b, inputOf (pinsNow s) = .byte b ∧ ByteEffect b s u) ∨ u = clearEvents s) := by
  obtain ⟨u, hu, ht⟩ := step_next.1 h
  refine ⟨u, ht, ?_⟩
  rcases stepOn_next hu with ⟨t0, hin, -⟩ | herr | hbyte | ⟨-, hq⟩
  · rcases inputOf_running hr with h' | ⟨b, h'⟩ | h' <;> rw [h'] at hin <;> cases hin
  · exact .inl herr
  · exact .inr (.inl hbyte)
  · exact .inr (.inr hq)

/-- A reading of the state that neither a transport error nor the end of an edge touches is changed by a byte only. -/
theorem step_changes {α : Type} (f : State → α) (hn : ∀ u, f (nextEdge u) = f u)
    (hf : ∀ s m c ch, f { s with mode := m, fault := c, faultCh := ch, evt := .none, events := [] } = f s)
    {s t : State} (hr : (pinsNow s).rst = false) (h : step s = .next t) (hne : f t ≠ f s) :
    ∃ b, inputOf (pinsNow s) = .byte b ∧ ∃ u, ByteEffect b s u ∧ f u ≠ f s := by
  obtain ⟨u, rfl, ⟨-, rfl⟩ | ⟨b, hin, e⟩ | rfl⟩ := step_running hr h
  · obtain ⟨m, c, ch, he⟩ := transportError_frame s
    rw [hn, he] at hne
    exact absurd (hf s m c ch) hne
  · rw [hn] at hne
    exact ⟨b, hin, u, e, hne⟩
  · rw [hn] at hne
    exact absurd (hf s s.mode s.fault s.faultCh) hne

/-- The second data byte of a command with opcode `op` is due, and `b` is a data byte. -/
structure SecondDataDue (op b : Byte) (s : State) : Prop where
  mode : s.mode = .await
  rem : s.rem ≠ 2#2
  pOp : s.pOp = op
  data : b < 0x80#8

section
variable {b : Byte} {s t : State} (e : ByteEffect b s t)
include e

theorem ByteEffect.port_changed {ch : Channel} (hne : portOf t ch ≠ portOf s ch) :
    ch = s.pCh ∧ s.pCh.toNat < s.cfg.numPorts ∧ SecondDataDue s.cfg.opDigital b s := by
  cases e with
  | digital hm hb hr ho =>
    rcases Nat.lt_or_ge s.pCh.toNat s.cfg.numPorts with hc | hc
    · refine ⟨?_, hc, hm, hr, ho, hb⟩
      by_contra hch
      refine hne ?_
      rw [digitalBranch_writes hc]
      exact (portOf_setPort _ _ _ _).trans (if_neg hch)
    · rw [digitalBranch_halts hc] at hne
      exact absurd rfl hne
  | _ => exact absurd (portOf_congr (by simp [versionBranch]) ch) hne

theorem ByteEffect.ana_changed {ch : Channel} (hne : anaOf t ch ≠ anaOf s ch) :
    ch = s.pCh ∧ s.pCh.toNat < s.cfg.numAnalog ∧ SecondDataDue s.cfg.opAnalog b s := by
  cases e with
  | analog hm hb hr _ ho =>
    rcases Nat.lt_or_ge s.pCh.toNat s.cfg.numAnalog with hc | hc
    · refine ⟨?_, hc, hm, hr, ho, hb⟩
      by_contra hch
      refine hne ?_
      rw [analogBranch_writes hc]
      exact (anaOf_setAna _ _ _ _).trans (if_neg hch)
    · rw [analogBranch_halts hc] at hne
      exact absurd rfl hne
  | _ => exact absurd (anaOf_congr (by simp [versionBranch]) ch) hne

theorem ByteEffect.version_changed (hne : (t.verMajor, t.verMinor) ≠ (s.verMajor, s.verMinor)) :
    SecondDataDue s.cfg.opVersion b s := by
  cases e with
  | version hm hb hr _ _ ho => exact ⟨hm, hr, ho, hb⟩
  | _ => exact absurd (by simp) hne

theorem ByteEffect.latch_changed
    (hne : (t.i2cAddr, t.i2cReg, t.i2cLen, t.i2cPl) ≠ (s.i2cAddr, s.i2cReg, s.i2cLen, s.i2cPl)) :
    s.mode = .sysex ∧ b = 0xF7#8 ∧ replyValid s = true := by
  cases e with
  | reply hm hb hv => exact ⟨hm, hb, hv⟩
  | _ => exact absurd (by simp [versionBranch]) hne

theorem ByteEffect.fault_changed (hne : t.fault ≠ s.fault ∨ t.faultCh ≠ s.faultCh) : t.mode = .halted ∧ t.faultCh = s.pCh ∧
    (SecondDataDue s.cfg.opDigital b s ∧ s.cfg.numPorts ≤ s.pCh.toNat ∧ t.fault = .digRange ∨
      SecondDataDue s.cfg.opAnalog b s ∧ s.cfg.numAnalog ≤ s.pCh.toNat ∧ t.fault = .anaRange) := by
  cases e with
  | digital hm hb hr ho =>
    rcases Nat.lt_or_ge s.pCh.toNat s.cfg.numPorts with hc | hc
    · rw [digitalBranch_writes hc] at hne
      simp at hne
    · rw [digitalBranch_halts hc]
      exact ⟨rfl, rfl, .inl ⟨⟨hm, hr, ho, hb⟩, hc, rfl⟩⟩
  | analog hm hb hr _ ho =>
    rcases Nat.lt_or_ge s.pCh.toNat s.cfg.numAnalog with hc | hc
    · rw [analogBranch_writes hc] at hne
      simp at hne
    · rw [analogBranch_halts hc]
      exact ⟨rfl, rfl, .inr ⟨⟨hm, hr, ho, hb⟩, hc, rfl⟩⟩
  | _ => exact absurd hne (by simp [versionBranch])

end

/-- Settles O40: each register file is changed by the second data byte of its own message. -/
theorem registerFilesChangeOnlyByTheirMessage : Obligations.RegisterFilesChangeOnlyByTheirMessage := by
  intro s t hr hstep
  refine ⟨fun ch hne => ?_, fun ch hne => ?_, fun hne => ?_⟩
  · obtain ⟨b, hin, u, e, hu⟩ :=
      step_changes (fun s => portOf s ch) (fun _ => rfl) (fun _ _ _ _ => rfl) hr hstep hne
    obtain ⟨hch, hc, hdue⟩ := e.port_changed hu
    exact ⟨hch, hdue.mode, hdue.rem, hdue.pOp, hc, b, hin, hdue.data⟩
  · obtain ⟨b, hin, u, e, hu⟩ :=
      step_changes (fun s => anaOf s ch) (fun _ => rfl) (fun _ _ _ _ => rfl) hr hstep hne
    obtain ⟨hch, hc, hdue⟩ := e.ana_changed hu
    exact ⟨hch, hdue.mode, hdue.rem, hdue.pOp, hc, b, hin, hdue.data⟩
  · obtain ⟨b, hin, u, e, hu⟩ :=
      step_changes (fun s => (s.verMajor, s.verMinor)) (fun _ => rfl) (fun _ _ _ _ => rfl) hr hstep
        (fun h => not_or_intro (· (congrArg Prod.fst h)) (· (congrArg Prod.snd h)) hne)
    have hdue := e.version_changed hu
    exact ⟨hdue.mode, hdue.rem, hdue.pOp, b, hin, hdue.data⟩

/-- Settles O41: of the effects of a byte only the accepted reply writes the latch. -/
theorem latchChangesOnlyByAnAcceptedReply : Obligations.LatchChangesOnlyByAnAcceptedReply := by
  intro s t hr hstep hne
  obtain ⟨b, hin, u, e, hu⟩ :=
    step_changes (fun s => (s.i2cAddr, s.i2cReg, s.i2cLen, s.i2cPl)) (fun _ => rfl) (fun _ _ _ _ => rfl) hr hstep
      (by simpa only [ne_eq, Prod.mk.injEq] using hne)
  obtain ⟨hm, rfl, hv⟩ := e.latch_changed hu
  exact ⟨hm, hin, replyValid_iff.1 hv⟩

/-- Settles O42: a fault is raised by a transport error or by a range check, and a quiet edge raises none. -/
theorem faultRegistersChangeOnlyAtAHalt : Obligations.FaultRegistersChangeOnlyAtAHalt := by
  intro s t hr hstep hne
  obtain ⟨u, rfl, ⟨hin, rfl⟩ | ⟨b, hin, e⟩ | rfl⟩ := step_running hr hstep
  · by_cases hm : s.mode = .halted
    · rw [transportError_halted hm] at hne
      simp at hne
    · rw [transportError_running hm]
      exact ⟨hm, rfl, .inl ⟨hin, rfl, rfl⟩⟩
  · obtain ⟨hhalt, hch, ⟨hdue, hc, hf⟩ | ⟨hdue, hc, hf⟩⟩ := e.fault_changed hne
    · exact ⟨by simp [hdue.mode], hhalt, .inr (.inl ⟨hdue.mode, hdue.rem, hdue.pOp, hc, hf, hch, b, hin, hdue.data⟩)⟩
    · exact ⟨by simp [hdue.mode], hhalt, .inr (.inr ⟨hdue.mode, hdue.rem, hdue.pOp, hc, hf, hch, b, hin, hdue.data⟩)⟩
  · simp at hne

end Sys2Proof.Machine
end

section
/-! SUPPORT. The events of a step (30_encoding.md R82; 10_state.md R39): which steps emit, and what stands on the event outputs. -/

namespace Sys2Proof.Machine

/-! ### Events and event words -/

/-- The events of a mask, with the pins counted from the first pin of the port. -/
theorem maskEvents_eq (ch : Channel) (mask bits : Byte) :
    maskEvents ch mask bits = (List.range 8).filterMap (fun i =>
      if mask.getLsbD i then some (.digitalChanged (8 * ch.toNat + i) (bits.getLsbD i)) else none) := by
  simp only [maskEvents, pinNumber, Nat.add_comm]

theorem mem_maskEvents {ch : Channel} {mask bits : Byte} {ev : Event} (h : ev ∈ maskEvents ch mask bits) :
    ∃ i < 8, ∃ level, ev = .digitalChanged (8 * ch.toNat + i) level := by
  rw [maskEvents_eq] at h
  obtain ⟨i, hi, he⟩ := List.mem_filterMap.1 h
  refine ⟨i, List.mem_range.1 hi, bits.getLsbD i, ?_⟩
  split at he
  · exact (Option.some.inj he).symm
  · cases he

/-- The fourteen wires of an analog event carry a register value whole. -/
theorem setWidth_analog {v : Half} (h : v.toNat < 0x4000) : (v.setWidth 14).setWidth 16 = v := by
  apply BitVec.eq_of_toNat_eq
  simp only [BitVec.toNat_setWidth]
  omega

/-! ### The steps that emit -/

/-- The event word and the event list of `t`, after a byte `b` offered in `s`. -/
inductive EventCase (b : Byte) (s t : State) : Prop where
  | silent (hw : t.evt = .none) (he : t.events = [])
  | digital (hdue : SecondDataDue s.cfg.opDigital b s) (mask bits : Byte) (hmask : mask ≠ 0#8)
      (hw : t.evt = .digital s.pCh mask bits) (he : t.events = maskEvents s.pCh mask bits)
  | analog (hdue : SecondDataDue s.cfg.opAnalog b s) (v : Half) (hv : v.toNat < 0x4000)
      (hw : t.evt = .analog s.pCh (v.setWidth 14)) (he : t.events = [.analogChanged s.pCh v])
  | reply (hm : s.mode = .sysex) (hb : b = 0xF7#8) (hv : replyValid s = true) (hw : t.evt = .i2c)
      (he : t.events = [.i2cReceived t.i2cAddr t.i2cReg (latchedPayload t)])

theorem EventCase.nextEdge {b : Byte} {s t : State} (h : EventCase b s t) : EventCase b s (nextEdge t) := by
  cases h with
  | silent hw he => exact .silent hw he
  | digital hdue mask bits hmask hw he => exact .digital hdue mask bits hmask hw he
  | analog hdue v hv hw he => exact .analog hdue v hv hw he
  | reply hm hb hv hw he => exact .reply hm hb hv hw (by rw [latchedPayload_congr (s := t) (t := Machine.nextEdge t) rfl rfl]; exact he)

theorem ByteEffect.eventCase {b : Byte} {s t : State} (e : ByteEffect b s t) : EventCase b s t := by
  cases e with
  | reply hm hb hv hl =>
    have he : (acceptedReply s).events =
        [.i2cReceived (acceptedReply s).i2cAddr (acceptedReply s).i2cReg (latchedPayload (acceptedReply s))] := by
      rw [latchedPayload_acceptedReply, acceptedReply_i2cAddr, acceptedReply_i2cReg, acceptedReply_events]
    exact .reply hm hb hv (acceptedReply_evt s) he
  | digital hm hb hr ho =>
    rcases Nat.lt_or_ge s.pCh.toNat s.cfg.numPorts with hc | hc
    · rw [digitalBranch_writes hc]
      by_cases hmask : changeMask (portOf s s.pCh) (joinData s.d0 (dataOf b)) = 0#8
      · exact .silent (if_pos hmask) (by rw [emitEvents_events, digitalEvents, hmask, maskEvents_zero])
      · exact .digital ⟨hm, hr, ho, hb⟩ _ _ hmask (if_neg hmask) rfl
    · rw [digitalBranch_halts hc]
      exact .silent rfl rfl
  | analog hm hb hr _ ho =>
    rcases Nat.lt_or_ge s.pCh.toNat s.cfg.numAnalog with hc | hc
    · rw [analogBranch_writes hc]
      exact .analog ⟨hm, hr, ho, hb⟩ _ (joinData_lt _ _) rfl rfl
    · rw [analogBranch_halts hc]
      exact .silent rfl rfl
  | _ => exact .silent rfl rfl

theorem step_events {s t : State} (h : step s = .next t) : (t.evt = .none ∧ t.events = []) ∨
    ∃ b, inputOf (pinsNow s) = .byte b ∧ EventCase b s t := by
  obtain ⟨u, hu, rfl⟩ := step_next.1 h
  rcases stepOn_next hu with ⟨t0, -, rfl⟩ | ⟨-, rfl⟩ | ⟨b, hin, e⟩ | ⟨-, rfl⟩
  · exact .inl ⟨rfl, rfl⟩
  · obtain ⟨_, _, _, he⟩ := transportError_frame s
    rw [he]
    exact .inl ⟨rfl, rfl⟩
  · exact .inr ⟨b, hin, e.eventCase.nextEdge⟩
  · exact .inl ⟨rfl, rfl⟩

/-- Settles O44: the emitting steps are the three of `EventCase`. -/
theorem oneEventClassPerStep : Obligations.OneEventClassPerStep := by
  intro s t hstep
  obtain ⟨-, he⟩ | ⟨b, hin, h⟩ := step_events hstep
  · exact .inl he
  cases h with
  | silent _ he => exact .inl he
  | digital hdue mask bits _ _ he =>
    refine .inr ⟨b, hin, .inl ⟨hdue.mode, hdue.rem, hdue.data, hdue.pOp, ?_⟩⟩
    rw [he]
    exact ⟨maskEvents_length_le _ _ _, fun _ => mem_maskEvents⟩
  | analog hdue v _ _ he => exact .inr ⟨b, hin, .inr (.inl ⟨hdue.mode, hdue.rem, hdue.data, hdue.pOp, v, he⟩)⟩
  | reply hm hb hv _ he =>
    obtain ⟨hlen, hsub⟩ := replyValid_iff.1 hv
    exact .inr ⟨b, hin, .inr (.inr ⟨hm, hb, hlen, hsub, _, _, _, he⟩)⟩

/-! ### The event outputs -/

/-- Settles O45: each event word shows its own event list. -/
theorem eventOutputsPresentTheEventList : Obligations.EventOutputsPresentTheEventList := by
  intro s t hstep
  rcases step_events hstep with ⟨hw, he⟩ | ⟨b, -, ⟨hw, he⟩ | ⟨-, mask, bits, hmask, hw, he⟩ | ⟨-, v, hv, hw, he⟩ |
    ⟨-, -, -, hw, he⟩⟩
  all_goals rw [he]; simp only [outputs, hw, isDigital, isAnalog]
  case inr.digital => simp [maskEvents_eq, hmask]
  case inr.analog => simp [setWidth_analog hv]
  all_goals simp

end Sys2Proof.Machine
end

section
/-! SUPPORT. What no step reads: the pending fields outside AWAIT (10_state.md R22), and the timestamp (R28). -/

namespace Sys2Proof.Machine

/-! ### The timestamp -/

/-- The state with another timestamp. -/
def withLastAct (x : Nat) (s : State) : State := { s with lastAct := x }

/-- A row that consumes its byte overwrites the timestamp, and IGNORED carries it. -/
theorem exec_withLastAct {i : Instr} {s u : State} (x : Nat) (h : exec i s = .next u) :
    ∃ y, (y = u.lastAct ∨ y = x) ∧ exec i (withLastAct x s) = .next (withLastAct y u) := by
  cases i with
  | ignoredHalted b =>
    cases h
    exact ⟨x, .inr rfl, rfl⟩
  | _ => exact ⟨u.lastAct, .inl rfl, h⟩

theorem transportError_withLastAct (x : Nat) (s : State) :
    transportError (withLastAct x s) = withLastAct x (transportError s) := by
  by_cases hm : s.mode = .halted
  · rw [transportError_halted hm, transportError_halted (s := withLastAct x s) hm]
    rfl
  · rw [transportError_running hm, transportError_running (s := withLastAct x s) hm]
    rfl

theorem stepOn_withLastAct {i : Input} {s u : State} (x : Nat) (h : stepOn i s = .next u) :
    ∃ y, (y = u.lastAct ∨ y = x) ∧ stepOn i (withLastAct x s) = .next (withLastAct y u) := by
  cases i with
  | reset t0 => exact ⟨u.lastAct, .inl rfl, h⟩
  | byte b => exact exec_withLastAct x h
  | transportError =>
    cases h
    exact ⟨x, .inr rfl, congrArg Host.Outcome.next (transportError_withLastAct x s)⟩
  | quiet =>
    cases h
    exact ⟨x, .inr rfl, rfl⟩

/-- Settles O48: the input of an edge and its row are the same, and the row writes the timestamp or carries it. -/
theorem timestampIsNeverRead : Obligations.TimestampIsNeverRead := by
  intro s t x hstep
  obtain ⟨u, hu, rfl⟩ := step_next.1 hstep
  obtain ⟨y, hy, hx⟩ := stepOn_withLastAct x hu
  exact ⟨y, hy, step_of_input (s := withLastAct x s) rfl hx⟩

/-! ### The pending fields -/

/-- The state with other pending fields. -/
def withPending (op : Byte) (ch : Channel) (r : BitVec 2) (d : Data7) (s : State) : State :=
  { s with pOp := op, pCh := ch, rem := r, d0 := d }

/-- The outcome `o` is `t` but for pending fields, and those of a command that `t` awaits are the same. -/
def NextButPending (o : Host.Outcome State Fault Refusal) (t : State) : Prop :=
  ∃ op ch r d, o = .next (withPending op ch r d t) ∧ (t.mode = .await → op = t.pOp ∧ ch = t.pCh ∧ r = t.rem)

theorem nextButPending_of_ne_await {o : Host.Outcome State Fault Refusal} {t : State} (op : Byte) (ch : Channel) (r : BitVec 2)
    (d : Data7) (hm : t.mode ≠ .await) (h : o = .next (withPending op ch r d t)) : NextButPending o t :=
  ⟨op, ch, r, d, h, fun e => absurd e hm⟩

section
variable (op : Byte) (ch : Channel) (r : BitVec 2) (d : Data7)

/-- A start sets the pending command afresh, whatever was there. -/
theorem startCommand_nextButPending (op' : Byte) (ch' : Channel) (s : State) :
    NextButPending (.next (startCommand op' ch' (consumeByte (withPending op ch r d s)))) (startCommand op' ch' (consumeByte s)) :=
  ⟨op', ch', 2#2, d, rfl, fun _ => ⟨rfl, rfl, rfl⟩⟩

/-- A row that stands outside AWAIT does not read the pending fields. -/
theorem exec_withPending {i : Instr} {s t : State} (hm : s.mode ≠ .await) (hi : i.StandsIn s.cfg (decodeCtx s))
    (h : exec i s = .next t) : NextButPending (exec i (withPending op ch r d s)) t := by
  cases i with
  | firstData | secondData | digitalComplete | analogComplete | versionComplete => exact absurd hi.1 hm
  | startDigital | startAnalog | startVersionNibble | startVersionFull =>
    cases h
    exact startCommand_nextButPending op ch r d _ _ s
  | startSysex =>
    cases h
    exact nextButPending_of_ne_await op ch r d (by simp) rfl
  | overflow =>
    cases h
    exact nextButPending_of_ne_await op ch r d (by simp) rfl
  | append b =>
    by_cases hc : s.cnt.toNat < s.cfg.sysexCap
    · rw [exec_append hc] at h
      cases h
      exact nextButPending_of_ne_await op ch r d hm (exec_append (s := withPending op ch r d s) hc)
    · rw [appendStopsAtTheCapacity b s (Nat.not_lt.1 hc)] at h
      cases h
  | finalize =>
    have hv := ne_true_of_eq_false hi.2
    rw [exec_finalize_discard hv] at h
    cases h
    exact nextButPending_of_ne_await op ch r d (by simp) (exec_finalize_discard (s := withPending op ch r d s) hv)
  | emitI2c =>
    obtain ⟨hl, rfl⟩ := emitReply_next.1 h
    exact nextButPending_of_ne_await op ch r d (by simp) (emitReply_next.2 ⟨hl, rfl⟩)
  | _ =>
    cases h
    exact nextButPending_of_ne_await op ch r d hm rfl

/-- Outside AWAIT the reading of a byte does not depend on the pending fields. -/
theorem readByte_withPending {s : State} (b : Byte) (hm : s.mode ≠ .await) :
    readByte b (withPending op ch r d s) = readByte b s := by
  unfold readByte decodeByte
  cases h : s.mode with
  | await => exact absurd h hm
  | _ => simp only [decodeCtx, withPending, h] <;> rfl

theorem stepOn_withPending {i : Input} {s u : State} (hm : s.mode ≠ .await) (h : stepOn i s = .next u) :
    NextButPending (stepOn i (withPending op ch r d s)) u := by
  cases i with
  | reset t0 =>
    cases h
    exact nextButPending_of_ne_await 0#8 0#4 0#2 0#7 (by simp) rfl
  | byte b =>
    rw [stepOn, readByte_withPending op ch r d b hm]
    exact exec_withPending op ch r d hm (isRowOf_decodeByte s.cfg (decodeCtx s) b).standsIn h
  | transportError =>
    cases h
    by_cases hh : s.mode = .halted
    · rw [stepOn, transportError_halted hh, transportError_halted (s := withPending op ch r d s) hh]
      exact nextButPending_of_ne_await op ch r d hm rfl
    · rw [stepOn, transportError_running hh, transportError_running (s := withPending op ch r d s) hh]
      exact nextButPending_of_ne_await op ch r d (by simp) rfl
  | quiet =>
    cases h
    exact nextButPending_of_ne_await op ch r d hm rfl

end

/-- Settles O47: the input of an edge and its row are the same outside AWAIT, and only a start enters AWAIT. -/
theorem pendingFieldsAreUnreadOutsideAwait : Obligations.PendingFieldsAreUnreadOutsideAwait := by
  intro s t op ch r d hm hstep
  obtain ⟨u, hu, rfl⟩ := step_next.1 hstep
  obtain ⟨op', ch', r', d', he, hawait⟩ := stepOn_withPending op ch r d hm hu
  exact ⟨op', ch', r', d', step_of_input (s := withPending op ch r d s) rfl he, hawait⟩

end Sys2Proof.Machine
end

section
/-! SUPPORT. Frames of three bytes (30_encoding.md R72, R84; 41_data_bytes.md R141, R142): a command, its two data bytes, and the run. -/

namespace Sys2Proof.Machine

/-! ### The state a stream goes on from -/

section
variable (s u : State)

@[simp] theorem afterByte_cfg : (afterByte s u).cfg = u.cfg := rfl
@[simp] theorem afterByte_mode : (afterByte s u).mode = u.mode := rfl
@[simp] theorem afterByte_pOp : (afterByte s u).pOp = u.pOp := rfl
@[simp] theorem afterByte_pCh : (afterByte s u).pCh = u.pCh := rfl
@[simp] theorem afterByte_rem : (afterByte s u).rem = u.rem := rfl
@[simp] theorem afterByte_d0 : (afterByte s u).d0 = u.d0 := rfl
@[simp] theorem afterByte_cnt : (afterByte s u).cnt = u.cnt := rfl
@[simp] theorem afterByte_port : (afterByte s u).port = u.port := rfl
@[simp] theorem afterByte_ana : (afterByte s u).ana = u.ana := rfl
@[simp] theorem afterByte_verMajor : (afterByte s u).verMajor = u.verMajor := rfl
@[simp] theorem afterByte_verMinor : (afterByte s u).verMinor = u.verMinor := rfl
@[simp] theorem afterByte_lastAct : (afterByte s u).lastAct = u.lastAct := rfl
@[simp] theorem afterByte_fault : (afterByte s u).fault = u.fault := rfl
@[simp] theorem afterByte_i2cAddr : (afterByte s u).i2cAddr = u.i2cAddr := rfl
@[simp] theorem afterByte_i2cReg : (afterByte s u).i2cReg = u.i2cReg := rfl
@[simp] theorem afterByte_i2cLen : (afterByte s u).i2cLen = u.i2cLen := rfl
@[simp] theorem afterByte_i2cPl : (afterByte s u).i2cPl = u.i2cPl := rfl
@[simp] theorem portOf_afterByte (ch : Channel) : portOf (afterByte s u) ch = portOf u ch := rfl
@[simp] theorem anaOf_afterByte (ch : Channel) : anaOf (afterByte s u) ch = anaOf u ch := rfl

end

@[simp] theorem portOf_emitEvents (w : EventWord) (es : List Event) (s : State) (ch : Channel) :
    portOf (emitEvents w es s) ch = portOf s ch := rfl

@[simp] theorem anaOf_emitEvents (w : EventWord) (es : List Event) (s : State) (ch : Channel) :
    anaOf (emitEvents w es s) ch = anaOf s ch := rfl

@[simp] theorem timeNow_offerStream (b : Byte) (t : Nat) (bs : List (Byte × Nat)) (s : State) :
    timeNow (offerStream ((b, t) :: bs) s) = t % 2 ^ s.cfg.timeW := rfl

/-! ### A start and its data bytes -/

/-- In `u` the command `op` on channel `ch` has `r` data bytes to come, and the register files are those of `s`. -/
structure Awaits (op : Byte) (ch : Channel) (r : BitVec 2) (s u : State) : Prop where
  files : SameFiles s u
  mode : u.mode = .await
  rem : u.rem = r
  pOp : u.pOp = op
  pCh : u.pCh = ch

theorem run_start {s : State} {b op : Byte} {ch : Channel} {t k : Nat} {rest : List (Byte × Nat)}
    (hm : s.mode = .idle ∨ s.mode = .await ∧ 0x80#8 ≤ b)
    (hex : exec (leadingByte s.cfg b) (offerStream ((b, t) :: rest) s) =
      .next (startCommand op ch (consumeByte (offerStream ((b, t) :: rest) s)))) :
    ∃ u, runEdges (k + 1) (offerStream ((b, t) :: rest) s) = runEdges k (offerStream rest u) ∧ Awaits op ch 2#2 s u := by
  have hread : readByte b (offerStream ((b, t) :: rest) s) = leadingByte s.cfg b :=
    readByte_leading (s := offerStream ((b, t) :: rest) s) hm
  refine ⟨_, runEdges_cons_silent (by rw [hread, hex]) (by simp), ?_⟩
  constructor
  · constructor <;> simp
  all_goals simp

theorem run_firstData {s u : State} {low op : Byte} {ch : Channel} {t k : Nat} {rest : List (Byte × Nat)}
    (ha : Awaits op ch 2#2 s u) (hlow : low < 0x80#8) :
    ∃ v, runEdges (k + 1) (offerStream ((low, t) :: rest) u) = runEdges k (offerStream rest v) ∧ Awaits op ch 1#2 s v ∧
      v.d0 = dataOf low := by
  obtain ⟨hfiles, hm, hr, hop, hch⟩ := ha
  have hread := readByte_firstData (s := offerStream ((low, t) :: rest) u) hm hr hlow
  refine ⟨_, runEdges_cons_silent (by rw [hread, exec_firstData]) (by simp), ⟨hfiles.trans ?_, ?_, ?_, ?_, ?_⟩, ?_⟩
  · constructor <;> simp
  all_goals simp [hm, hop, hch]

/-- A stream of a start and its data bytes, up to the second data byte. -/
theorem run_twoBytes {s : State} {b low op : Byte} {ch : Channel} {t1 t2 k : Nat} {rest : List (Byte × Nat)}
    (hm : s.mode = .idle ∨ s.mode = .await ∧ 0x80#8 ≤ b) (hlow : low < 0x80#8)
    (hex : exec (leadingByte s.cfg b) (offerStream ((b, t1) :: (low, t2) :: rest) s) =
      .next (startCommand op ch (consumeByte (offerStream ((b, t1) :: (low, t2) :: rest) s)))) :
    ∃ v, runEdges (k + 2) (offerStream ((b, t1) :: (low, t2) :: rest) s) = runEdges k (offerStream rest v) ∧
      Awaits op ch 1#2 s v ∧ v.d0 = dataOf low := by
  obtain ⟨u, hu, ha⟩ := run_start (k := k + 1) hm hex
  obtain ⟨v, hv, hva⟩ := run_firstData (t := t2) (k := k) (rest := rest) ha hlow
  exact ⟨v, hu.trans hv, hva⟩

/-- The run of a stream of one byte. -/
theorem runEdges_last {b : Byte} {t : Nat} {s u : State}
    (h : exec (readByte b (offerStream [(b, t)] s)) (offerStream [(b, t)] s) = .next u) :
    runEdges 1 (offerStream [(b, t)] s) = some (afterByte s u, u.events) := by
  rw [runEdges_cons h, runEdges, Option.map_some, List.append_nil]
  rfl

/-! ### The second data byte -/

section
variable {s u : State} {op b : Byte} {ch : Channel} {t : Nat}

theorem readByte_second (ha : Awaits op ch 1#2 s u) (hb : b < 0x80#8) :
    readByte b (offerStream [(b, t)] u) = if op = s.cfg.opDigital then .digitalComplete (dataOf b)
      else if op = s.cfg.opAnalog then .analogComplete (dataOf b)
      else if op = s.cfg.opVersion then .versionComplete (dataOf b) else .secondData (dataOf b) := by
  have hr : ¬ u.rem = 2#2 := by
    rw [ha.rem]
    decide
  simp only [readByte, decodeByte, decodeCtx, offerStream_mode, ha.mode, awaitDataByte, if_pos hb, offerStream_rem, if_neg hr,
    offerStream_pOp, offerStream_cfg, ha.pOp, ha.files.cfg]

/-- The last byte of a digital frame. -/
theorem run_digitalComplete (ha : Awaits s.cfg.opDigital ch 1#2 s u) (hb : b < 0x80#8) (hch : ch.toNat < s.cfg.numPorts) {v : Half}
    (hv : joinData u.d0 (dataOf b) = v) :
    ∃ w, runEdges 1 (offerStream [(b, t)] u) = some (w, digitalEvents ch (portOf s ch) v) ∧ w.mode = .idle ∧ portOf w ch = v ∧
      (∀ c, c ≠ ch → portOf w c = portOf s c) ∧ w.ana = s.ana ∧ w.verMajor = s.verMajor ∧ w.verMinor = s.verMinor ∧
      w.lastAct = t % 2 ^ s.cfg.timeW := by
  have hread := readByte_second (t := t) ha hb
  rw [if_pos rfl] at hread
  obtain ⟨hfiles, -, -, -, rfl⟩ := ha
  have hex : exec (readByte b (offerStream [(b, t)] u)) (offerStream [(b, t)] u) =
      .next (emitEvents (digitalWord u.pCh (portOf s u.pCh) v) (digitalEvents u.pCh (portOf s u.pCh) v)
        (setPort u.pCh v (finishCommand (consumeByte (offerStream [(b, t)] u))))) := by
    rw [hread, ← hv, ← portOf_congr hfiles.port]
    exact exec_digitalComplete (s := offerStream [(b, t)] u) (hfiles.cfg ▸ hch)
  refine ⟨_, runEdges_last hex, ?_⟩
  have hport : ∀ c, portOf (finishCommand (consumeByte (offerStream [(b, t)] u))) c = portOf s c := portOf_congr hfiles.port
  simp +contextual [portOf_setPort, hport, hfiles.ana, hfiles.verMajor, hfiles.verMinor, hfiles.cfg]

/-- The last byte of an analog frame. -/
theorem run_analogComplete (hval : s.cfg.Valid) (ha : Awaits s.cfg.opAnalog ch 1#2 s u) (hb : b < 0x80#8)
    (hch : ch.toNat < s.cfg.numAnalog) {v : Half} (hv : joinData u.d0 (dataOf b) = v) :
    ∃ w, runEdges 1 (offerStream [(b, t)] u) = some (w, [.analogChanged ch v]) ∧ w.mode = .idle ∧ anaOf w ch = v ∧
      (∀ c, c ≠ ch → anaOf w c = anaOf s c) ∧ w.port = s.port ∧ w.verMajor = s.verMajor ∧ w.verMinor = s.verMinor ∧
      w.lastAct = t % 2 ^ s.cfg.timeW := by
  obtain ⟨hDA, -⟩ := opcodes_ne hval
  have hread := readByte_second (t := t) ha hb
  rw [if_neg hDA, if_pos rfl] at hread
  obtain ⟨hfiles, -, -, -, rfl⟩ := ha
  have hex : exec (readByte b (offerStream [(b, t)] u)) (offerStream [(b, t)] u) =
      .next (emitEvents (analogWord u.pCh v) [.analogChanged u.pCh v]
        (setAna u.pCh v (finishCommand (consumeByte (offerStream [(b, t)] u))))) := by
    rw [hread, ← hv]
    exact exec_analogComplete (s := offerStream [(b, t)] u) (hfiles.cfg ▸ hch)
  refine ⟨_, runEdges_last hex, ?_⟩
  have hana : ∀ c, anaOf (finishCommand (consumeByte (offerStream [(b, t)] u))) c = anaOf s c := anaOf_congr hfiles.ana
  simp +contextual [anaOf_setAna, hana, hfiles.port, hfiles.verMajor, hfiles.verMinor, hfiles.cfg]

/-- The last byte of a version frame. -/
theorem run_versionComplete (hval : s.cfg.Valid) (ha : Awaits s.cfg.opVersion ch 1#2 s u) (hb : b < 0x80#8) :
    ∃ w, runEdges 1 (offerStream [(b, t)] u) = some (w, []) ∧ w.mode = .idle ∧ w.verMajor = u.d0 ∧ w.verMinor = dataOf b ∧
      w.port = s.port ∧ w.ana = s.ana ∧ w.lastAct = t % 2 ^ s.cfg.timeW := by
  obtain ⟨-, hDV, hAV⟩ := opcodes_ne hval
  have hread := readByte_second (t := t) ha hb
  rw [if_neg hDV, if_neg hAV, if_pos rfl] at hread
  have hex := exec_versionComplete (dataOf b) (offerStream [(b, t)] u)
  rw [← hread] at hex
  refine ⟨_, runEdges_last hex, ?_⟩
  simp [ha.files.port, ha.files.ana, ha.files.cfg]

end

/-! ### The frames -/

/-- A leading byte from 0x80 on is read alike in IDLE and in AWAIT. -/
theorem leading_modes {s : State} {b : Byte} (hm : s.mode = .idle ∨ s.mode = .await) (hb : ¬ b < 0x80#8) :
    s.mode = .idle ∨ s.mode = .await ∧ 0x80#8 ≤ b :=
  hm.imp_right fun h => ⟨h, BitVec.not_lt.1 hb⟩

/-- The value two data bytes are joined to (R50, R133). -/
theorem joinData_dataOf {low high : Byte} (hlow : low < 0x80#8) (hhigh : high < 0x80#8) :
    (joinData (dataOf low) (dataOf high)).toNat = low.toNat + 128 * high.toNat := by
  rw [joinData_toNat, dataOf_toNat hlow, dataOf_toNat hhigh]

/-- Settles O51: the start and the first data byte leave the port file, and DIGITAL_COMPLETE writes the joined value. -/
theorem digitalFrameSetsThePort : Obligations.DigitalFrameSetsThePort := by
  intro s p low high t1 t2 t3 h hm hp hlow hhigh
  have hop : IsNibbleOpcode s.cfg.opDigital := h.cfgValid.2.1.1
  obtain ⟨u, hrun, ha, hd0⟩ := run_twoBytes (k := 1) (t1 := t1) (t2 := t2) (rest := [(high, t3)])
    (leading_modes hm (isNibbleOpcode_fields hop p).2.1) hlow
    (exec_leadingByte_nibble (s := offerStream _ s) h.cfgValid p (.inl rfl))
  obtain ⟨w, hlast, hw⟩ := run_digitalComplete (t := t3) ha hhigh hp (congrArg (joinData · (dataOf high)) hd0)
  rw [digitalEvents_eq] at hlast
  exact ⟨w, _, joinData_dataOf hlow hhigh, hrun.trans hlast, hw⟩

/-- Settles O52: the start and the first data byte leave the analog file, and ANALOG_COMPLETE writes the joined value. -/
theorem analogFrameSetsTheChannel : Obligations.AnalogFrameSetsTheChannel := by
  intro s c low high t1 t2 t3 h hm hc hlow hhigh
  have hop : IsNibbleOpcode s.cfg.opAnalog := h.cfgValid.2.1.2.1
  obtain ⟨u, hrun, ha, hd0⟩ := run_twoBytes (k := 1) (t1 := t1) (t2 := t2) (rest := [(high, t3)])
    (leading_modes hm (isNibbleOpcode_fields hop c).2.1) hlow
    (exec_leadingByte_nibble (s := offerStream _ s) h.cfgValid c (.inr (.inl rfl)))
  obtain ⟨w, hlast, hw⟩ := run_analogComplete (t := t3) h.cfgValid ha hhigh hc (congrArg (joinData · (dataOf high)) hd0)
  exact ⟨w, _, joinData_dataOf hlow hhigh, hrun.trans hlast, hw⟩

/-- The byte `OP_VERSION` starts the version command on channel 0, in either form (R71, R163). -/
theorem exec_leadingByte_version {s : State} (hv : s.cfg.Valid) :
    exec (leadingByte s.cfg s.cfg.opVersion) s = .next (startCommand s.cfg.opVersion 0#4 (consumeByte s)) := by
  by_cases hn : s.cfg.nibbleVersion
  · have h := exec_leadingByte_nibble hv 0#4 (.inr (.inr ⟨hn, rfl⟩))
    rwa [show s.cfg.opVersion ||| (0#4).setWidth 8 = s.cfg.opVersion from BitVec.or_zero] at h
  · exact exec_leadingByte_versionFull hv hn

theorem opVersion_not_data {c : Config} (hv : c.Valid) : ¬ c.opVersion < 0x80#8 := by
  intro hlt
  have hn : c.nibbleVersion := BitVec.lt_trans hlt (by decide)
  have hver := hv.2.2.1
  rw [if_pos hn] at hver
  exact BitVec.not_lt.2 hver.1.2.1 hlt

/-- Settles O53: either form starts the version command, and VERSION_COMPLETE stores the two data groups. -/
theorem versionFrameSetsBothFields : Obligations.VersionFrameSetsBothFields := by
  intro s major minor t1 t2 t3 h hm
  obtain ⟨u, hrun, ha, hd0⟩ := run_twoBytes (k := 1) (t1 := t1) (t2 := t2) (rest := [(minor.setWidth 8, t3)])
    (leading_modes hm (opVersion_not_data h.cfgValid)) (dataByte_lt major)
    (exec_leadingByte_version (s := offerStream _ s) h.cfgValid)
  obtain ⟨w, hlast, hidle, hmajor, hminor, hw⟩ := run_versionComplete (t := t3) h.cfgValid ha (dataByte_lt minor)
  rw [hd0, dataOf_setWidth] at hmajor
  rw [dataOf_setWidth] at hminor
  exact ⟨w, hrun.trans hlast, hidle, hmajor, hminor, hw⟩

end Sys2Proof.Machine
end

section
/-! SUPPORT. Sysex frames (40_sysex.md R109, R110; 30_encoding.md R73, R74): the opener with its body, the three ends of a frame, and the
run. -/

namespace Sys2Proof.Machine

/-! ### The body -/

/-- `u` is in SYSEX with the body `body` so far, and the register files are those of `s`. -/
structure BodyOpen (body : List Byte) (s u : State) : Prop where
  files : SameFiles s u
  mode : u.mode = .sysex
  count : u.cnt.toNat = body.length
  bytes : ∀ i (h : i < body.length), accByte u i = body[i]

/-- 0xF0 in IDLE and a body that fits. -/
theorem run_openBody {s : State} {body : List Byte} {bb rest : List (Byte × Nat)} {t0 k : Nat} (hv : s.cfg.Valid) (hm : s.mode = .idle)
    (hne : ∀ b ∈ body, b ≠ 0xF7#8) (hlen : body.length ≤ s.cfg.sysexCap) (hb : bb.map Prod.fst = body) :
    ∃ u, runEdges (body.length + k + 1) (offerStream ((0xF0#8, t0) :: (bb ++ rest)) s) = runEdges k (offerStream rest u) ∧
      BodyOpen body s u := by
  obtain ⟨v, hrun, hfiles, hmode, hcnt, hacc⟩ := run_startSysex (t0 := t0) (k := body.length + k) (rest := bb ++ rest) hm
  obtain ⟨u, hrun', hfiles', hmode', -, hcnt', -, hbytes⟩ := run_body body bb rest k v hb (by rw [hfiles.cfg]; exact hv) hmode
    (hacc ▸ Memory.wf_nil) hne (by rw [hcnt, hfiles.cfg]; omega)
  simp only [hcnt, Nat.zero_add] at hcnt' hbytes
  exact ⟨u, hrun.trans hrun', hfiles.trans hfiles', hmode', hcnt', hbytes⟩

/-! ### The ends of a frame -/

@[simp] theorem pairValue_offerStream (bs : List (Byte × Nat)) (s : State) (k : Nat) :
    pairValue (offerStream bs s) k = pairValue s k := rfl

@[simp] theorem replyPayload_offerStream (bs : List (Byte × Nat)) (s : State) :
    replyPayload (offerStream bs s) = replyPayload s := rfl

section
variable {s u : State} {body : List Byte} {t : Nat}

/-- The body so far is an accepted reply where it is longer than REPLY_MIN and begins with 0x77 (R106). -/
theorem BodyOpen.replyValid_iff (ho : BodyOpen body s u) :
    replyValid u = true ↔ s.cfg.replyMin < body.length ∧ body.head? = some 0x77#8 := by
  rw [Machine.replyValid_iff, ho.count, ho.files.cfg]
  refine and_congr_right fun hlt => ?_
  have hpos : 0 < body.length := Nat.zero_lt_of_lt hlt
  rw [ho.bytes 0 hpos, List.head?_eq_getElem?, List.getElem?_eq_getElem hpos, Option.some.injEq]

/-- The END_SYSEX of a frame that is no accepted reply. -/
theorem run_discard (ho : BodyOpen body s u) (hv : ¬ replyValid u = true) :
    ∃ w, runEdges 1 (offerStream [(0xF7#8, t)] u) = some (w, []) ∧ SameFiles s w ∧ w.mode = .idle ∧ w.cnt = 0#8 := by
  refine ⟨_, runEdges_last (exec_endSysex_discard (s := offerStream [(0xF7#8, t)] u) ho.mode hv), ho.files.trans ?_, ?_, ?_⟩
  · constructor <;> simp
  all_goals simp

/-- The END_SYSEX of an accepted reply. -/
theorem run_reply (ho : BodyOpen body s u) (hv : replyValid u = true) (hcap : body.length ≤ s.cfg.sysexCap) :
    ∃ w, runEdges 1 (offerStream [(0xF7#8, t)] u) =
        some (w, [.i2cReceived (pairValue u 0) (pairValue u 1) (replyPayload u)]) ∧
      w.mode = .idle ∧ w.cnt = 0#8 ∧ w.i2cAddr = pairValue u 0 ∧ w.i2cReg = pairValue u 1 ∧ latchedPayload w = replyPayload u ∧
      w.port = s.port ∧ w.ana = s.ana ∧ w.verMajor = s.verMajor ∧ w.verMinor = s.verMinor ∧ w.fault = s.fault := by
  have hex := exec_endSysex_reply (s := offerStream [(0xF7#8, t)] u) ho.mode
    (by rw [offerStream_cnt, ho.count, offerStream_cfg, ho.files.cfg]; exact hcap) hv
  have hpl := (latchedPayload_congr (afterByte_i2cLen u _) (afterByte_i2cPl u _)).trans
    (latchedPayload_acceptedReply (offerStream [(0xF7#8, t)] u))
  have hrun := runEdges_last hex
  rw [acceptedReply_events, pairValue_offerStream, pairValue_offerStream, replyPayload_offerStream] at hrun
  refine ⟨_, hrun, ?_⟩
  simp [hpl, ho.files.port, ho.files.ana, ho.files.verMajor, ho.files.verMinor, ho.files.fault]

/-- A body byte past the capacity. -/
theorem run_overflow {b : Byte} {k : Nat} {rest : List (Byte × Nat)} (ho : BodyOpen body s u)
    (hlen : body.length = s.cfg.sysexCap) (hb : b ≠ 0xF7#8) :
    ∃ w, runEdges (k + 1) (offerStream ((b, t) :: rest) u) = runEdges k (offerStream rest w) ∧ SameFiles s w ∧ w.mode = .idle ∧
      w.cnt = 0#8 := by
  have hread := readByte_overflow (s := offerStream ((b, t) :: rest) u) ho.mode hb
    (ho.count.trans (hlen.trans (congrArg Config.sysexCap ho.files.cfg.symm)))
  refine ⟨_, runEdges_cons_silent (by rw [hread, exec_overflow]) (by simp), ho.files.trans ?_, ?_, ?_⟩
  · constructor <;> simp
  all_goals simp

end

/-- No configured opcode matches 0xF7 (R7, R8). -/
theorem exec_leadingByte_strayEnd {s : State} (hv : s.cfg.Valid) :
    exec (leadingByte s.cfg 0xF7#8) s = .next (consumeByte s) := by
  obtain ⟨-, ⟨hd, ha, -⟩, hver, -⟩ := hv
  have hne : ∀ op, IsNibbleOpcode op → opcodeOf 0xF7#8 ≠ op := by decide
  by_cases hn : s.cfg.nibbleVersion
  · rw [if_pos hn] at hver
    have hstray : (0xF7#8 : Byte) ≠ s.cfg.opVersion := fun e => absurd (e ▸ hver.1) (by decide)
    exact exec_leadingByte_unrecognised (hne _ hd) (hne _ ha) (fun e => hne _ hver.1 e.2) hstray (by decide)
  · rw [if_neg hn] at hver
    exact exec_leadingByte_unrecognised (hne _ hd) (hne _ ha) (fun e => hn e.1) hver.2.symm (by decide)

/-- An END_SYSEX in IDLE. -/
theorem run_strayEnd {s : State} {t : Nat} (hv : s.cfg.Valid) (hm : s.mode = .idle) :
    ∃ w, runEdges 1 (offerStream [(0xF7#8, t)] s) = some (w, []) ∧ SameFiles s w ∧ w.mode = .idle ∧ w.cnt = s.cnt := by
  have hread := readByte_leading (b := 0xF7#8) (s := offerStream [(0xF7#8, t)] s) (.inl hm)
  have hex := exec_leadingByte_strayEnd (s := offerStream [(0xF7#8, t)] s) hv
  refine ⟨_, runEdges_last (by rw [hread, hex]), ?_, ?_, ?_⟩
  · constructor <;> simp
  all_goals simp [hm]

/-! ### Frames that leave no trace -/

/-- Settles O56: the body is stored, and the validator does not accept it. -/
theorem otherSysexIsDiscarded : Obligations.OtherSysexIsDiscarded := by
  intro s body bs h hm hne hlen hbad hbs
  obtain ⟨t0, bb, t1, rfl, hbb⟩ := timed_sysexFrame hbs
  obtain ⟨u, hrun, ho⟩ := run_openBody (t0 := t0) (k := 1) (rest := [(0xF7#8, t1)]) h.cfgValid hm hne hlen hbb
  have hv : ¬ replyValid u = true := by
    rw [ho.replyValid_iff]
    rintro ⟨hmin, hhead⟩
    exact hbad.elim (fun hh => hh hhead) (Nat.not_le.2 hmin)
  obtain ⟨w, hend, hw, hidle, hcnt⟩ := run_discard (t := t1) ho hv
  have hcount : ((0xF0#8, t0) :: (bb ++ [(0xF7#8, t1)])).length = body.length + 1 + 1 := by simp [← hbb]
  refine ⟨w, ?_, hidle, hcnt, hw.port, hw.ana, hw.verMajor, hw.verMinor, hw.fault.trans (h.fault_none (by simp [hm])), hw.i2cAddr,
    hw.i2cReg, hw.i2cLen, hw.i2cPl⟩
  rw [runStream, hcount, hrun, hend]

/-- A list longer than `n` is its first `n` entries, an entry, and the rest. -/
theorem exists_split_of_length_lt {α : Type} {l : List α} {n : Nat} (h : n < l.length) :
    ∃ l1 x l2, l = l1 ++ x :: l2 ∧ l1.length = n :=
  ⟨l.take n, l[n], l.drop (n + 1), by simp, by simp [h.le]⟩

/-- Settles O55: the body overflows at its first byte past the capacity, and the rest of the frame is dropped in IDLE. -/
theorem overlongSysexLeavesNoTrace : Obligations.OverlongSysexLeavesNoTrace := by
  intro s body bs h hm hlt hlen hbs
  obtain ⟨t0, bb, t1, rfl, rfl⟩ := timed_sysexFrame hbs
  have hne : ∀ b : Byte, b < 0x80#8 → b ≠ 0xF7#8 := by decide
  obtain ⟨bb1, ⟨b, t⟩, bb2, rfl, hcap⟩ := exists_split_of_length_lt (by simpa using hlen)
  simp only [List.map_append, List.map_cons, List.forall_mem_append, List.forall_mem_cons] at hlt
  obtain ⟨hlt1, hb, hlt2⟩ := hlt
  have hbody : (bb1.map Prod.fst).length = s.cfg.sysexCap := by rw [List.length_map, hcap]
  obtain ⟨u, hrun, ho⟩ := run_openBody (t0 := t0) (k := bb2.length + 1 + 1) (rest := (b, t) :: (bb2 ++ [(0xF7#8, t1)]))
    h.cfgValid hm (fun b hb => hne b (hlt1 b hb)) hbody.le rfl
  obtain ⟨v, hover, hv, hvidle, hvcnt⟩ := run_overflow (t := t) (k := bb2.length + 1) (rest := bb2 ++ [(0xF7#8, t1)]) ho hbody
    (hne b hb)
  obtain ⟨w, hdrop, hw, hwidle, hwcnt⟩ := run_dropped (bb2.map Prod.fst) bb2 [(0xF7#8, t1)] 1 v rfl (hv.cfg ▸ h.cfgValid) hvidle hlt2
  obtain ⟨x, hend, hx, hxidle, hxcnt⟩ := run_strayEnd (t := t1) (hw.cfg ▸ hv.cfg ▸ h.cfgValid) hwidle
  have hs := (hv.trans hw).trans hx
  refine ⟨x, ?_, hxidle, by rw [hxcnt, hwcnt, hvcnt], hs.port, hs.ana, hs.verMajor, hs.verMinor,
    hs.fault.trans (h.fault_none (by simp [hm])), hs.i2cAddr, hs.i2cReg, hs.i2cLen, hs.i2cPl⟩
  have hcount : ((0xF0#8, t0) :: (bb1 ++ (b, t) :: bb2 ++ [(0xF7#8, t1)])).length =
      (bb1.map Prod.fst).length + (bb2.length + 1 + 1) + 1 := by simp +arith
  rw [List.length_map] at hdrop
  rw [runStream, hcount, List.append_assoc, List.cons_append, hrun, hover, hdrop, hend]

/-! ### The reply frame -/

section
variable {u : State} {L : List (BitVec 14)} (hcnt : u.cnt.toNat = 2 * L.length + 1)
  (hbytes : ∀ i (h : i < (i2cReplyByte :: pairBytes L).length), accByte u i = (i2cReplyByte :: pairBytes L)[i])
include hbytes

/-- The pairs behind the opcode byte are the values sent (R107). -/
theorem pairValue_of_pairBytes {k : Nat} (hk : k < L.length) : pairValue u k = L[k].setWidth 16 := by
  obtain ⟨hlow, hhigh⟩ := pairBytes_get L k hk
  have hl : 2 * k + 1 < (i2cReplyByte :: pairBytes L).length := by simp; omega
  have hh : 2 * k + 2 < (i2cReplyByte :: pairBytes L).length := by simp; omega
  rw [pairValue, hbytes _ hl, hbytes _ hh, List.getElem_cons_succ, List.getElem_cons_succ, hlow, hhigh, joinBytes_groups]

include hcnt

/-- The payload is the low bytes of the values behind the first two (R107). -/
theorem replyPayload_of_pairBytes : replyPayload u = (L.drop 2).map (fun v => v.setWidth 8) := by
  have hpairs : pairCount u = L.length := by
    rw [pairCount, hcnt]
    omega
  apply List.ext_getElem
  · simp [hpairs]
  intro j hj _
  have hk : j + 2 < L.length := by
    rw [replyPayload_length, hpairs] at hj
    omega
  simp only [replyPayload, List.getElem_map, List.getElem_range, List.getElem_drop, Nat.add_comm 2 j]
  rw [pairValue_of_pairBytes hbytes hk, lowByte, BitVec.setWidth_setWidth_of_le _ (by decide)]

end

/-- Settles O54: the body holds the pairs, which the END_SYSEX joins again. -/
theorem replyFrameRoundTrip : Obligations.ReplyFrameRoundTrip := by
  intro s a r vs bs h hm hfit hmin hbs
  obtain ⟨t0, bb, t1, rfl, hbb⟩ := timed_sysexFrame hbs
  have hlen : (replyBody a r vs).length = 2 * vs.length + 5 := by
    simp only [replyBody, List.length_cons, pairBytes_length]
    omega
  have hne : ∀ b ∈ replyBody a r vs, b ≠ 0xF7#8 := by
    intro b hb
    rcases List.mem_cons.1 hb with rfl | hb
    · decide
    · rintro rfl
      exact absurd (pairBytes_lt _ _ hb) (by decide)
  obtain ⟨u, hrun, ho⟩ := run_openBody (t0 := t0) (k := 1) (rest := [(0xF7#8, t1)]) h.cfgValid hm hne (hlen.trans_le hfit) hbb
  have hcnt : u.cnt.toNat = 2 * (a :: r :: vs).length + 1 := by
    rw [ho.count, hlen, List.length_cons, List.length_cons]
    omega
  have hv : replyValid u = true := ho.replyValid_iff.2 ⟨by rwa [hlen], rfl⟩
  obtain ⟨w, hend, hw⟩ := run_reply (t := t1) ho hv (hlen.trans_le hfit)
  rw [replyPayload_of_pairBytes hcnt ho.bytes, pairValue_of_pairBytes ho.bytes (Nat.zero_lt_succ _),
    pairValue_of_pairBytes ho.bytes (Nat.succ_lt_succ (Nat.zero_lt_succ _))] at hend hw
  have hcount : ((0xF0#8, t0) :: (bb ++ [(0xF7#8, t1)])).length = (replyBody a r vs).length + 1 + 1 := by simp [← hbb]
  refine ⟨w, ?_, hw⟩
  rw [runStream, hcount, hrun, hend]
  rfl

end Sys2Proof.Machine
end
